-- ==== Sys2Proof/Word.lean ====
section
/-! DEFINITION. The two word types of the block: a byte of controller memory (R17) and a 32-bit word, which is both a
command word (R60) and a pixel word (R42). All arithmetic on them is unsigned (R6). -/

namespace Sys2Proof

/-- Eight bits: one element of `vram`, one operand field of a command word, the contrast register. -/
abbrev Byte := BitVec 8

/-- Thirty-two bits: a command word (R60) or a pixel word (R42). -/
abbrev Word := BitVec 32

end Sys2Proof
end

