-- ==== Sys2Proof/Config.lean ====
section
/-! DEFINITION. What is fixed for one machine (the parameters of 00_scope R5) and the free values the spec leaves open (the
draws of R27 and R116). A free value is an opaque constant with no body: nothing can be proved about which value it is. -/

namespace Sys2Proof

/-- The six buttons, in the order of R108: 0 = Up, 1 = Down, 2 = Left, 3 = Right, 4 = A, 5 = B. -/
inductive ButtonId where
  | up | down | left | right | aButton | bButton
deriving DecidableEq, Repr

/-- One `α` for each of the six buttons (R5: NBTN = 6, fixed). -/
structure PerButton (α : Type) where
  up : α
  down : α
  left : α
  right : α
  aButton : α
  bButton : α
deriving DecidableEq, Repr

/-- The six entries in the order of the button ids (R108). -/
abbrev PerButton.toList {α : Type} (t : PerButton α) : List α := [t.up, t.down, t.left, t.right, t.aButton, t.bButton]

/-- An interrupt line of the engine (R15): one of two port blocks and a bit index in it. -/
structure Line where
  block : Fin 2
  bit : Nat
deriving DecidableEq, Repr

/-- The display geometry (R5): the open parameters PAGES and COLS. -/
structure Geometry where
  pages : Nat
  cols : Nat
deriving DecidableEq, Repr

/-- `W = COLS` (R5). -/
def Geometry.width (g : Geometry) : Nat := g.cols

/-- `H = 8 * PAGES` (R5). -/
def Geometry.height (g : Geometry) : Nat := 8 * g.pages

/-- The bounds of R5: 1 <= PAGES <= 256 and 1 <= COLS <= 256. -/
abbrev Geometry.WF (g : Geometry) : Prop := (1 ≤ g.pages ∧ g.pages ≤ 256) ∧ (1 ≤ g.cols ∧ g.cols ≤ 256)

/-- The one constraint on WIRING (R15): the six lines are pairwise distinct. -/
abbrev WiringDistinct (w : PerButton Line) : Prop := w.toList.Nodup

/-- The geometry of the reset state: the defaults PAGES = 8 and COLS = 128 of R5.
DESIGN CHOICE, log 1, unsafe for a claim that rests on the reset state's geometry: the spec leaves both open. -/
def Config.geometry : Geometry := { pages := 8, cols := 128 }

/-- Some wiring, nobody knows which (R15, D9). The argument says only that one exists. -/
opaque Config.wiringDraw (exists_one : Inhabited { w : PerButton Line // WiringDistinct w }) :
    { w : PerButton Line // WiringDistinct w }

/-- The wiring of the reset state: an open parameter (R15), free but for being pairwise distinct. Log 2, safe. -/
def Config.wiring : PerButton Line :=
  (Config.wiringDraw ⟨⟨⟨⟨0, 0⟩, ⟨0, 1⟩, ⟨0, 2⟩, ⟨0, 3⟩, ⟨0, 4⟩, ⟨0, 5⟩⟩, by decide⟩⟩).val

/-- PIX_INIT (R5, R27, K6): the host's word at each index of the pixel buffer at reset. Log 5, safe. -/
opaque Config.pixInit : (index : Nat) → Word

/-- LUM_INIT (R5, R27, K4): the bit at (r, x) of the luminance map that a numbered draw gives. Log 4, safe. -/
opaque Config.lumInit : (draw r x : Nat) → Bool

/-- CM_INIT (R5, R27, K5): the byte at (p, c) of the controller memory. Log 4, safe. -/
opaque Config.vramInit : (draw p c : Nat) → Byte

/-- CM_INIT: a number from which the cursor's page is taken, in range. Log 4, safe. -/
opaque Config.pageInit : (draw : Nat) → Nat

/-- CM_INIT: a number from which the cursor's column is taken, in range. Log 4, safe. -/
opaque Config.colInit : (draw : Nat) → Nat

/-- CM_INIT: the dirty flag. Log 4, safe. -/
opaque Config.dirtyInit : (draw : Nat) → Bool

/-- CM_INIT: the flags register. Log 4, safe. -/
opaque Config.flagsInit : (draw : Nat) → BitVec 4

/-- CM_INIT: the contrast register. Log 4, safe. -/
opaque Config.contrastInit : (draw : Nat) → Byte

/-- What a read of a luminance bit that is no element of the map would give; no state of the right shape makes one
(R44, R53). Log 12, safe. -/
opaque Config.absentBit : Bool

/-- What a read of a byte that is no element of the controller memory would give; no state of the right shape makes one
(R44, R53). Log 12, safe. -/
opaque Config.absentByte : Byte

end Sys2Proof
end

