-- ==== Sys2Proof/Syntax.lean ====
section
/-! DEFINITION. The eleven operations and actions of R62, one constructor per row of spec/opcode_table.json, and the agents
that perform and send them (R8). -/

namespace Sys2Proof

/-- An operation of the block or an action of the engine agent (R62), its operands at their own widths (R63). -/
inductive Instr where
  /-- NOP (R115). -/
  | nop
  /-- SETUP ok (R116): `ok` is the outcome of the out-of-scope part of setup. -/
  | setup (ok : Bool)
  /-- TEARDOWN (R117). -/
  | teardown
  /-- SETBTN id, s (R106): `id` is any byte, `pressed` is the reported state. -/
  | setbtn (id : Byte) (pressed : Bool)
  /-- WRNOTIFY (R83). -/
  | wrnotify
  /-- COMPOSITE (R97). -/
  | composite
  /-- CM.DATA p, c, v (R126). -/
  | cmData (page col value : Byte)
  /-- CM.CURSOR p, c (R127). -/
  | cmCursor (page col : Byte)
  /-- CM.FLAGS f (R128). -/
  | cmFlags (flags : BitVec 4)
  /-- CM.CONTRAST k (R129). -/
  | cmContrast (contrast : Byte)
  /-- CM.DIRTY d (R130). -/
  | cmDirty (dirty : Bool)
deriving DecidableEq, Repr

/-- The three agents of R8. -/
inductive Agent where
  | block | engine | host
deriving DecidableEq, Repr

/-- Who performs it (R8): the block its six operations, the engine agent its five actions. -/
def Instr.performer : Instr → Agent
  | .nop | .setup _ | .teardown | .setbtn _ _ | .wrnotify | .composite => .block
  | .cmData _ _ _ | .cmCursor _ _ | .cmFlags _ | .cmContrast _ | .cmDirty _ => .engine

/-- Who originates it (R8, R178); the spec names nobody for NOP, and nobody is checked (R145). -/
def Instr.originator : Instr → Option Agent
  | .nop => none
  | .setup _ | .teardown | .setbtn _ _ => some .host
  | .wrnotify | .composite | .cmData _ _ _ | .cmCursor _ _ | .cmFlags _ | .cmContrast _ | .cmDirty _ => some .engine

end Sys2Proof
end

