-- ==== Sys2Proof/WellFormed.lean ====
section
/-! DEFINITION. Which instructions have a command word that is not reserved: the range condition of R62 and R64 (c). Every
other operand is legal at every value of its width (R106, R128, R129). -/

namespace Sys2Proof

/-- `f2 < PAGES` and `f1 < COLS` for CM.DATA and CM.CURSOR (R62), nothing for the others. -/
def Instr.wf (g : Geometry) : Instr → Bool
  | .cmData p c _ => decide (p.toNat < g.pages) && decide (c.toNat < g.cols)
  | .cmCursor p c => decide (p.toNat < g.pages) && decide (c.toNat < g.cols)
  | .nop | .setup _ | .teardown | .setbtn _ _ | .wrnotify | .composite | .cmFlags _ | .cmContrast _ | .cmDirty _ => true

end Sys2Proof
end

