-- ==== Sys2Proof/Decode.lean ====
section
/-! DEFINITION. The command word (R60 to R64): its four fields, the decoder (total, each reserved word rejected by name), the
encoder, and the mask-and-pattern table of R62 as the spec prints it. -/

namespace Sys2Proof

/-- Why a command word is reserved (R64). -/
inductive ReservedReason where
  /-- R64 (a): `op` is not one of 0x00..0x05, 0x10..0x14. -/
  | undefinedOp
  /-- R64 (b): a field or bit the row requires to be 0 is not 0. -/
  | operandNotZero
  /-- R64 (c): `f2 >= PAGES` in CM.DATA or CM.CURSOR. -/
  | pageOutOfRange
  /-- R64 (c): `f1 >= COLS` in CM.DATA or CM.CURSOR. -/
  | columnOutOfRange
deriving DecidableEq, Repr

/-- `op = cw[31:24]` (R61). -/
def fieldOp (w : Word) : Byte := w.extractLsb' 24 8
/-- `f2 = cw[23:16]` (R61). -/
def fieldF2 (w : Word) : Byte := w.extractLsb' 16 8
/-- `f1 = cw[15:8]` (R61). -/
def fieldF1 (w : Word) : Byte := w.extractLsb' 8 8
/-- `f0 = cw[7:0]` (R61). -/
def fieldF0 (w : Word) : Byte := w.extractLsb' 0 8

/-- `cw = op || f2 || f1 || f0` (R61). -/
def joinFields (op f2 f1 f0 : Byte) : Word := op ++ f2 ++ f1 ++ f0

/-- The instruction, if what the row requires to be 0 is 0 (R64 (b)). -/
def ifZero (zero : Bool) (i : Instr) : Except ReservedReason Instr :=
  if zero then .ok i else .error .operandNotZero

/-- The instruction, if its page and column are in range (R64 (c)). -/
def ifInRange (g : Geometry) (p c : Byte) (i : Instr) : Except ReservedReason Instr :=
  if p.toNat < g.pages then (if c.toNat < g.cols then .ok i else .error .columnOutOfRange) else .error .pageOutOfRange

/-- `f0[7:1]` is 0: the fields of the form `0000000 b` (R62). -/
def bitOnly (f0 : Byte) : Bool := f0.extractLsb' 1 7 == 0#7

/-- `f0[7:4]` is 0: the field of the form `0000 f[3:0]` (R62). -/
def nibbleOnly (f0 : Byte) : Bool := f0.extractLsb' 4 4 == 0#4

/-- The rows of R62, operands as R63 takes them from their fields. -/
def decodeFields (g : Geometry) (op f2 f1 f0 : Byte) : Except ReservedReason Instr :=
  match op with
  | 0x00#8 => ifZero (f2 == 0 && f1 == 0 && f0 == 0) .nop
  | 0x01#8 => ifZero (f2 == 0 && f1 == 0 && bitOnly f0) (.setup (f0.getLsbD 0))
  | 0x02#8 => ifZero (f2 == 0 && f1 == 0 && f0 == 0) .teardown
  | 0x03#8 => ifZero (f1 == 0 && bitOnly f0) (.setbtn f2 (f0.getLsbD 0))
  | 0x04#8 => ifZero (f2 == 0 && f1 == 0 && f0 == 0) .wrnotify
  | 0x05#8 => ifZero (f2 == 0 && f1 == 0 && f0 == 0) .composite
  | 0x10#8 => ifInRange g f2 f1 (.cmData f2 f1 f0)
  | 0x11#8 => if f0 == 0 then ifInRange g f2 f1 (.cmCursor f2 f1) else .error .operandNotZero
  | 0x12#8 => ifZero (f2 == 0 && f1 == 0 && nibbleOnly f0) (.cmFlags (f0.extractLsb' 0 4))
  | 0x13#8 => ifZero (f2 == 0 && f1 == 0) (.cmContrast f0)
  | 0x14#8 => ifZero (f2 == 0 && f1 == 0 && bitOnly f0) (.cmDirty (f0.getLsbD 0))
  | _ => .error .undefinedOp

/-- The decoder of a machine of geometry `g`: total on all 2^32 words (R60, R62, R64). -/
def decode (g : Geometry) (w : Word) : Except ReservedReason Instr :=
  decodeFields g (fieldOp w) (fieldF2 w) (fieldF1 w) (fieldF0 w)

/-- A field of the form `0000000 b` (R62). -/
def bitField (b : Bool) : Byte := 0#7 ++ BitVec.ofBool b

/-- The field of the form `0000 f[3:0]` (R62). -/
def nibbleField (f : BitVec 4) : Byte := 0#4 ++ f

/-- The command word of an instruction (R61, R62). -/
def encode : Instr → Word
  | .nop => joinFields 0x00 0 0 0
  | .setup ok => joinFields 0x01 0 0 (bitField ok)
  | .teardown => joinFields 0x02 0 0 0
  | .setbtn id pressed => joinFields 0x03 id 0 (bitField pressed)
  | .wrnotify => joinFields 0x04 0 0 0
  | .composite => joinFields 0x05 0 0 0
  | .cmData p c v => joinFields 0x10 p c v
  | .cmCursor p c => joinFields 0x11 p c 0
  | .cmFlags f => joinFields 0x12 0 0 (nibbleField f)
  | .cmContrast k => joinFields 0x13 0 0 k
  | .cmDirty d => joinFields 0x14 0 0 (bitField d)

/-- A row of the opcode map of R62: the word matches when `(cw AND mask) = pattern` and, for a ranged row, `f2 < PAGES` and
`f1 < COLS`. -/
structure OpcodeRow where
  mnemonic : String
  pattern : Word
  mask : Word
  ranged : Bool
deriving DecidableEq, Repr

/-- The opcode map as R62 prints it. -/
def opcodeTable : List OpcodeRow := [
  ⟨"NOP", 0x00000000, 0xFFFFFFFF, false⟩,
  ⟨"SETUP", 0x01000000, 0xFFFFFFFE, false⟩,
  ⟨"TEARDOWN", 0x02000000, 0xFFFFFFFF, false⟩,
  ⟨"SETBTN", 0x03000000, 0xFF00FFFE, false⟩,
  ⟨"WRNOTIFY", 0x04000000, 0xFFFFFFFF, false⟩,
  ⟨"COMPOSITE", 0x05000000, 0xFFFFFFFF, false⟩,
  ⟨"CM.DATA", 0x10000000, 0xFF000000, true⟩,
  ⟨"CM.CURSOR", 0x11000000, 0xFF0000FF, true⟩,
  ⟨"CM.FLAGS", 0x12000000, 0xFFFFFFF0, false⟩,
  ⟨"CM.CONTRAST", 0x13000000, 0xFFFFFF00, false⟩,
  ⟨"CM.DIRTY", 0x14000000, 0xFFFFFFFE, false⟩]

/-- A word matches a row (R62). -/
def OpcodeRow.accepts (r : OpcodeRow) (g : Geometry) (w : Word) : Bool :=
  (w &&& r.mask == r.pattern) &&
    (!r.ranged || (decide ((fieldF2 w).toNat < g.pages) && decide ((fieldF1 w).toNat < g.cols)))

/-- The row's mnemonic of each instruction (R62). -/
def Instr.mnemonic : Instr → String
  | .nop => "NOP"
  | .setup _ => "SETUP"
  | .teardown => "TEARDOWN"
  | .setbtn _ _ => "SETBTN"
  | .wrnotify => "WRNOTIFY"
  | .composite => "COMPOSITE"
  | .cmData _ _ _ => "CM.DATA"
  | .cmCursor _ _ => "CM.CURSOR"
  | .cmFlags _ => "CM.FLAGS"
  | .cmContrast _ => "CM.CONTRAST"
  | .cmDirty _ => "CM.DIRTY"

/-- What the decoder reads from an instruction of `nbits` bits `w`, at the geometry of the reset state. The format is one
32-bit word (R60), so the bits above `nbits` are 0 and there are no others. -/
def decodeTableWord (nbits w : Nat) : Option Instr :=
  (decode Config.geometry (BitVec.ofNat 32 (w % 2 ^ nbits))).toOption

end Sys2Proof
end

