-- ==== Sys2Proof/Machine/State.lean ====
section
/-! DEFINITION. The state of the machine (10_state.md): plain data, everything R10 to R23 give it, and the state after hardware
reset (R27, R160). -/

namespace Sys2Proof.Machine

/-- An entry of the Button Wiring Table: the stored state (R13) and the level last driven on its line (R14). -/
structure Button where
  pressed : Bool
  line : Bool
deriving DecidableEq, Repr

/-- The cursor position of the Display Controller Model (R18). -/
structure Cursor where
  page : Nat
  col : Nat
deriving DecidableEq, Repr

/-- The Display Controller Model (R17 to R21): owned by the engine agent, observed by the block. `vram` is indexed page first,
then column. -/
structure ControllerModel where
  vram : List (List Byte)
  cursor : Cursor
  dirty : Bool
  flags : BitVec 4
  contrast : Byte
deriving DecidableEq, Repr

/-- What exists only while a session is live (R27, R145): the button table with the lines, the luminance map (indexed row first,
then column, R16) and the Display Controller Model. -/
structure Session where
  buttons : PerButton Button
  lum : List (List Bool)
  cm : ControllerModel
deriving DecidableEq, Repr

/-- The result a SETUP returns to the host (R7, R116). -/
inductive SetupResult where
  | success | failure
deriving DecidableEq, Repr

/-- An output event (R23). -/
inductive Event where
  /-- The block calls the engine's raise primitive on a line with a level (R7, R109). -/
  | raiseLine (line : Line) (level : Bool)
  /-- The block returns the outcome of a SETUP to the host (R116). -/
  | setupResult (outcome : SetupResult)
deriving DecidableEq, Repr

/-- What reaches the machine next, in the one total order of R48. -/
inductive Arrival where
  /-- A command word on the command port (R60, R69). -/
  | word (w : Word)
  /-- The host overwrites a word of its own pixel buffer between operations (R178, the row "read the frame"). -/
  | hostPixel (index : Nat) (value : Word)
deriving DecidableEq, Repr

/-- The whole state. `session` is present exactly while `live = 1` (R12, R145). `geom` and `wiring` are the parameters of R5, the
same in every state of a run. `pix` is the host's pixel buffer, row-major (R22). `events` is the output event sequence, oldest
first (R23). `arrivals`, `sp` and `draws` are the model's own: what is still to arrive, the stream index of R11, and how many free
draws SETUP has made (log 4, log 6). -/
structure State where
  geom : Geometry
  wiring : PerButton Line
  session : Option Session
  pix : List Word
  events : List Event
  arrivals : List Arrival
  sp : Nat
  draws : Nat
deriving DecidableEq, Repr

/-- Nothing faults: "No operation can fault: every operation is total on every state and every operand value" (R135). No
constructor, so nobody raises one. -/
inductive Fault where
deriving DecidableEq, Repr

/-- Why a step has no meaning. -/
inductive Refusal where
  /-- Raised by an arm of `exec` whose instruction has no meaning yet; no arm does. Safe. -/
  | notModelled (mnemonic : String)
  /-- Raised by COMPOSITE when it would write a pixel buffer that has not exactly W*H words: a breach of the boot requirement of
  R163, which K15 treats as "`refuse`: a launch premise, not a behaviour". Safe; log 11. -/
  | pixelBufferSize
deriving DecidableEq, Repr

/-- Hardware reset (R27, R160) of a machine with the given parameters and host buffer: not live, no event, nothing arrived. -/
def State.resetWith (g : Geometry) (wiring : PerButton Line) (pix : List Word) : State :=
  { geom := g, wiring := wiring, session := none, pix := pix, events := [], arrivals := [], sp := 0, draws := 0 }

/-- The machine right after hardware reset (R27): the default geometry (log 1), any wiring (log 2), any W*H words in the host's
buffer (log 5). -/
def State.reset : State :=
  State.resetWith Config.geometry Config.wiring
    ((List.range (Config.geometry.width * Config.geometry.height)).map Config.pixInit)

end Sys2Proof.Machine
end

