-- ==== Sys2Proof/Machine/Flags.lean ====
section
/-! DEFINITION. The flags register of the Display Controller Model (R20): bit 0 on, bit 1 inv, bit 2 remap, bit 3 comrev. No
operation computes a flag: the register is written whole by CM.FLAGS (R128) and read by COMPOSITE. -/

namespace Sys2Proof.Machine

/-- `flags.on`: the display is on (R20, R91). -/
def flagOn (f : BitVec 4) : Bool := f.getLsbD 0
/-- `flags.inv`: foreground and background swap roles (R20, R93). -/
def flagInv (f : BitVec 4) : Bool := f.getLsbD 1
/-- `flags.remap`: horizontal mirroring (R20, R94). -/
def flagRemap (f : BitVec 4) : Bool := f.getLsbD 2
/-- `flags.comrev`: vertical mirroring (R20, R95). -/
def flagComrev (f : BitVec 4) : Bool := f.getLsbD 3

/-- `ON = 1` (R67). -/
def maskOn : BitVec 4 := 1
/-- `INV = 2` (R67). -/
def maskInv : BitVec 4 := 2
/-- `REMAP = 4` (R67). -/
def maskRemap : BitVec 4 := 4
/-- `COMREV = 8` (R67). -/
def maskComrev : BitVec 4 := 8

end Sys2Proof.Machine
end

