-- ==== Sys2Proof/Machine/Operands.lean ====
section
/-! DEFINITION. The operand forms of R63: button ids (R108), the six-entry tables they index, and page and column operands. -/

namespace Sys2Proof.Machine

/-- The number of a button (R108). -/
def buttonCode : ButtonId → Byte
  | .up => 0
  | .down => 1
  | .left => 2
  | .right => 3
  | .aButton => 4
  | .bButton => 5

/-- The button an id names (R108): 0..5 are the valid set, 6..255 name none. -/
def buttonOfId (id : Byte) : Option ButtonId :=
  match id.toNat with
  | 0 => some .up
  | 1 => some .down
  | 2 => some .left
  | 3 => some .right
  | 4 => some .aButton
  | 5 => some .bButton
  | _ => none

/-- Entry `b` of a six-entry table. -/
def entry {α : Type} (t : PerButton α) : ButtonId → α
  | .up => t.up
  | .down => t.down
  | .left => t.left
  | .right => t.right
  | .aButton => t.aButton
  | .bButton => t.bButton

/-- The table with entry `b` replaced. -/
def setEntry {α : Type} (t : PerButton α) (b : ButtonId) (v : α) : PerButton α :=
  match b with
  | .up => { t with up := v }
  | .down => { t with down := v }
  | .left => { t with left := v }
  | .right => { t with right := v }
  | .aButton => { t with aButton := v }
  | .bButton => { t with bButton := v }

/-- The table with the same value for all six buttons. -/
def allButtons {α : Type} (v : α) : PerButton α := { up := v, down := v, left := v, right := v, aButton := v, bButton := v }

/-- The level on a button's line (R14, R106): the logical NOT of pressed, active-low with a pull-up. -/
def levelOf (pressed : Bool) : Bool := !pressed

/-- `p < PAGES` and `c < COLS` (R126, R127); otherwise the word is reserved (R64 (c)). -/
def operandsInRange (g : Geometry) (p c : Byte) : Bool := decide (p.toNat < g.pages) && decide (c.toNat < g.cols)

end Sys2Proof.Machine
end

