-- ==== Sys2Proof/Machine/Ops.lean ====
section
/-! DEFINITION. The named operations over memory and state: the element-indexed spaces of R40, the output events of R7, the
arrival of the next word (R60, R69), a reserved word (R64). There is no operation that takes an exception and none that returns
from one: the block raises and takes no trap (R135, R142, R143). -/

namespace Sys2Proof.Machine

/-! ### Element-indexed spaces (R40) -/

/-- A two-dimensional array given element by element. -/
def Memory.tabulate {α : Type} (rows cols : Nat) (f : Nat → Nat → α) : List (List α) :=
  (List.range rows).map fun r => (List.range cols).map fun c => f r c

/-- The element at row `r`, column `c`, if there is one. -/
def Memory.read {α : Type} (m : List (List α)) (r c : Nat) : Option α := (m[r]?).bind fun row => row[c]?

/-- The array with the element at row `r`, column `c` replaced; an index that names no element changes nothing. -/
def Memory.write {α : Type} (m : List (List α)) (r c : Nat) (v : α) : List (List α) :=
  m.modify r fun row => row.set c v

/-- The array has exactly `rows` rows of exactly `cols` elements. -/
abbrev Memory.Shaped {α : Type} (rows cols : Nat) (m : List (List α)) : Prop :=
  m.length = rows ∧ ∀ row ∈ m, row.length = cols

/-- `MemRead(VRAM, (p,c))` (R7). -/
def readByte (vram : List (List Byte)) (p c : Nat) : Byte := (Memory.read vram p c).getD Config.absentByte

/-- `MemRead(LUM, (r,x))` (R7). -/
def readBit (lum : List (List Bool)) (r x : Nat) : Bool := (Memory.read lum r x).getD Config.absentBit

/-- A pixel buffer of `w * h` words, row-major: the word at index `y*w + x` is `f y x` (R22, R53 (d)). -/
def frameOf (w h : Nat) (f : Nat → Nat → Word) : List Word :=
  (List.range (w * h)).map fun i => f (i / w) (i % w)

/-! ### Session (R12, R145) -/

/-- `live` (R12). -/
def State.live (s : State) : Bool := s.session.isSome

/-- Acts on the session while live, and is a no-op while not live (R118). -/
def State.onSession (s : State) (f : Session → Session) : State := { s with session := s.session.map f }

/-- An engine-agent action on the Display Controller Model (R125): a no-op while not live. -/
def State.onController (s : State) (f : ControllerModel → ControllerModel) : State :=
  s.onSession fun ss => { ss with cm := f ss.cm }

/-! ### Output events (R7, R23) -/

/-- `emit E` appends the event to the output event sequence (R6). -/
def State.emit (s : State) (e : Event) : State := { s with events := s.events ++ [e] }

/-- `emit RaiseLine(WIRING[b], NOT pressed)`, which sets `line[b]`, and store the new state (R106, R14). -/
def State.reportButton (s : State) (b : ButtonId) (pressed : Bool) : State :=
  (s.onSession fun ss =>
      { ss with buttons := setEntry ss.buttons b { pressed := pressed, line := levelOf pressed } }).emit
    (.raiseLine (entry s.wiring b) (levelOf pressed))

/-! ### Arrivals (R60, R69) -/

/-- The next arrival and the state that awaits the one after it: a command word is consumed once (R51) and advances the stream
index by 1 (R11, R69); a host store is no command word. -/
def takeArrival (s : State) : Option (Arrival × State) :=
  match s.arrivals with
  | [] => none
  | .word w :: rest => some (.word w, { s with arrivals := rest, sp := s.sp + 1 })
  | .hostPixel i v :: rest => some (.hostPixel i v, { s with arrivals := rest })

/-- A reserved word is performed as no operation at all (R64, R137); log 7. The state given is the one after the word was
taken, so that the port goes on to the next word. -/
def performReserved (s : State) : Host.Outcome State Fault Refusal := .next s

/-- The host overwrites one word of its own buffer between operations (R178); an index outside the buffer is no word of it. -/
def performHostPixel (i : Nat) (v : Word) (s : State) : Host.Outcome State Fault Refusal :=
  .next { s with pix := s.pix.set i v }

/-- Nothing has arrived: the block waits for the next word; it never stops accepting them (R69); log 6. -/
def awaitArrival (s : State) : Host.Outcome State Fault Refusal := .next s

end Sys2Proof.Machine
end

