-- ==== Sys2Proof/Machine/ButtonBridge.lean ====
section
/-! DEFINITION. The Button Bridge (42_button_bridge.md): SETBTN (R106). -/

namespace Sys2Proof.Machine

/-- SETBTN id, s (R106): a no-op when not live, when the id is out of the valid set, and when the new state equals the stored
state; otherwise one raise call, with the line and the stored state updated together. -/
def execSetbtn (id : Byte) (pressed : Bool) (s : State) : Host.Outcome State Fault Refusal :=
  match s.session with
  | none => .next s
  | some ss =>
    match buttonOfId id with
    | none => .next s
    | some b => if pressed = (entry ss.buttons b).pressed then .next s else .next (s.reportButton b pressed)

end Sys2Proof.Machine
end

