-- ==== Sys2Proof/Machine/Compositor.lean ====
section
/-! DEFINITION. The Display Compositor (41_display_compositor.md): gray level (R92), colours (R93), mirroring (R94, R95), pixel
selection (R96) and COMPOSITE (R97). -/

namespace Sys2Proof.Machine

/-- `V(contrast) = floor(255 * (contrast + 256) / 512)` (R92, the form C10 says governs). -/
def grayLevel (contrast : Byte) : Byte := BitVec.ofNat 8 (255 * (contrast.toNat + 256) / 512)

/-- `R || G || B || A` (R42). -/
def rgba (r g b a : Byte) : Word := r ++ g ++ b ++ a

/-- `GRAY = V || V || V || 0xFF` (R93). -/
def grayWord (contrast : Byte) : Word :=
  rgba (grayLevel contrast) (grayLevel contrast) (grayLevel contrast) 0xFF

/-- `BLACK = 0x000000FF` (R93). -/
def blackWord : Word := rgba 0 0 0 0xFF

/-- `fg` (R93). -/
def foreground (flags : BitVec 4) (contrast : Byte) : Word := if flagInv flags then blackWord else grayWord contrast

/-- `bg` (R93). -/
def background (flags : BitVec 4) (contrast : Byte) : Word := if flagInv flags then grayWord contrast else blackWord

/-- `sx = W-1-x` if remap, else `x` (R94). -/
def sourceColumn (g : Geometry) (flags : BitVec 4) (x : Nat) : Nat := if flagRemap flags then g.width - 1 - x else x

/-- `sy = H-1-y` if comrev, else `y` (R95). -/
def sourceRow (g : Geometry) (flags : BitVec 4) (y : Nat) : Nat := if flagComrev flags then g.height - 1 - y else y

/-- The destination pixel at row `y`, column `x` (R96). -/
def compositePixel (g : Geometry) (flags : BitVec 4) (contrast : Byte) (lum : List (List Bool)) (y x : Nat) : Word :=
  if readBit lum (sourceRow g flags y) (sourceColumn g flags x) then foreground flags contrast else background flags contrast

/-- The whole frame in one pass (R45, R97). -/
def compositeFrame (g : Geometry) (flags : BitVec 4) (contrast : Byte) (lum : List (List Bool)) : List Word :=
  frameOf g.width g.height (compositePixel g flags contrast lum)

/-- COMPOSITE (R97): nothing when not live or the display is off (R91); otherwise every word of the pixel buffer. A buffer of
another size than W*H is outside the spec (R163, K15); log 11. -/
def execComposite (s : State) : Host.Outcome State Fault Refusal :=
  match s.session with
  | none => .next s
  | some ss =>
    if flagOn ss.cm.flags then
      if s.pix.length = s.geom.width * s.geom.height then
        .next { s with pix := compositeFrame s.geom ss.cm.flags ss.cm.contrast ss.lum }
      else .refused .pixelBufferSize
    else .next s

end Sys2Proof.Machine
end

