-- ==== Sys2Proof/Machine/ControllerActions.lean ====
section
/-! DEFINITION. The engine agent's five actions on the Display Controller Model (44_environment_actions.md, R125 to R130). Each
sets one element and nothing else, and is a no-op while not live. -/

namespace Sys2Proof.Machine

/-- CM.DATA p, c, v (R126): `vram[p][c] <- v`; with an operand out of range the word is reserved and nothing happens (R64). -/
def execCmData (p c v : Byte) (s : State) : Host.Outcome State Fault Refusal :=
  if operandsInRange s.geom p c then
    .next (s.onController fun cm => { cm with vram := Memory.write cm.vram p.toNat c.toNat v })
  else performReserved s

/-- CM.CURSOR p, c (R127): `cursor <- (p, c)`; with an operand out of range the word is reserved and nothing happens (R64). -/
def execCmCursor (p c : Byte) (s : State) : Host.Outcome State Fault Refusal :=
  if operandsInRange s.geom p c then
    .next (s.onController fun cm => { cm with cursor := { page := p.toNat, col := c.toNat } })
  else performReserved s

/-- CM.FLAGS f (R128): the four display flags. -/
def execCmFlags (f : BitVec 4) (s : State) : Host.Outcome State Fault Refusal :=
  .next (s.onController fun cm => { cm with flags := f })

/-- CM.CONTRAST k (R129). -/
def execCmContrast (k : Byte) (s : State) : Host.Outcome State Fault Refusal :=
  .next (s.onController fun cm => { cm with contrast := k })

/-- CM.DIRTY d (R130). -/
def execCmDirty (d : Bool) (s : State) : Host.Outcome State Fault Refusal :=
  .next (s.onController fun cm => { cm with dirty := d })

end Sys2Proof.Machine
end

