-- ==== Sys2Proof/Machine/DisplayDecoder.lean ====
section
/-! DEFINITION. The Display Decoder (40_display_decoder.md): the unpack function (R81) and WRNOTIFY (R83). -/

namespace Sys2Proof.Machine

/-- `Decode(vram)` (R81): `L[r][x] = vram[floor(r/8)][x][r mod 8]`, bit 0 the topmost row of the page. -/
def decodeVram (g : Geometry) (vram : List (List Byte)) : List (List Bool) :=
  Memory.tabulate g.height g.width fun r x => (readByte vram (r / 8) x).getLsbD (r % 8)

/-- The guard of R83: the cursor the model holds is the display origin and the dirty flag is set. -/
def decodeDue (cm : ControllerModel) : Bool := cm.cursor.page == 0 && cm.cursor.col == 0 && cm.dirty

/-- `lum <- Decode(vram)` and `dirty <- 0` (R83). -/
def Session.decoded (g : Geometry) (ss : Session) : Session :=
  { ss with lum := decodeVram g ss.cm.vram, cm := { ss.cm with dirty := false } }

/-- WRNOTIFY (R83). -/
def execWrnotify (s : State) : Host.Outcome State Fault Refusal :=
  .next (s.onSession fun ss => if decodeDue ss.cm then ss.decoded s.geom else ss)

end Sys2Proof.Machine
end

