-- ==== Sys2Proof/Machine/Session.lean ====
section
/-! DEFINITION. The session operations of 43_session_ops.md: NOP (R115), SETUP (R116), TEARDOWN (R117). -/

namespace Sys2Proof.Machine

/-- CM_INIT of draw `n`: any legal value (R27, R116). Taking the drawn numbers modulo PAGES and COLS makes the cursor legal and
leaves every legal cursor possible. Log 4. -/
def drawController (g : Geometry) (n : Nat) : ControllerModel :=
  { vram := Memory.tabulate g.pages g.cols (Config.vramInit n)
    cursor := { page := Config.pageInit n % g.pages, col := Config.colInit n % g.cols }
    dirty := Config.dirtyInit n
    flags := Config.flagsInit n
    contrast := Config.contrastInit n }

/-- The session a successful SETUP begins (R116): all buttons released, all lines high, LUM_INIT and CM_INIT drawn afresh. -/
def newSession (g : Geometry) (n : Nat) : Session :=
  { buttons := allButtons { pressed := false, line := true }
    lum := Memory.tabulate g.height g.width (Config.lumInit n)
    cm := drawController g n }

/-- NOP (R115): nothing. -/
def execNop (s : State) : Host.Outcome State Fault Refusal := .next s

/-- SETUP ok (R116). -/
def execSetup (ok : Bool) (s : State) : Host.Outcome State Fault Refusal :=
  if s.live then .next (s.emit (.setupResult .failure))
  else if ok then
    .next (({ s with session := some (newSession s.geom s.draws), draws := s.draws + 1 } : State).emit (.setupResult .success))
  else .next (s.emit (.setupResult .failure))

/-- TEARDOWN (R117): `live <- 0`, and what exists only while live ceases to exist. -/
def execTeardown (s : State) : Host.Outcome State Fault Refusal := .next { s with session := none }

end Sys2Proof.Machine
end

