-- ==== Sys2Proof/Machine/Dispatch.lean ====
section
/-! DEFINITION. The meaning of every instruction: one arm per constructor of `Instr`. -/

namespace Sys2Proof.Machine

-- One row of spec/opcode_table.json an arm, in the table's order.
def exec (i : Instr) (s : State) : Host.Outcome State Fault Refusal :=
  match i with
  | .nop => Sys2Proof.Machine.execNop s
  | .setup ok => Sys2Proof.Machine.execSetup ok s
  | .teardown => Sys2Proof.Machine.execTeardown s
  | .setbtn id pressed => Sys2Proof.Machine.execSetbtn id pressed s
  | .wrnotify => Sys2Proof.Machine.execWrnotify s
  | .composite => Sys2Proof.Machine.execComposite s
  | .cmData p c v => Sys2Proof.Machine.execCmData p c v s
  | .cmCursor p c => Sys2Proof.Machine.execCmCursor p c s
  | .cmFlags f => Sys2Proof.Machine.execCmFlags f s
  | .cmContrast k => Sys2Proof.Machine.execCmContrast k s
  | .cmDirty d => Sys2Proof.Machine.execCmDirty d s

end Sys2Proof.Machine
end

