-- ==== Sys2Proof/Machine/Step.lean ====
section
/-! DEFINITION. One step: the next arrival is performed to completion before the next is accepted (R60, R69). -/

namespace Sys2Proof.Machine

/-- Takes the next arrival and performs it: a command word as the instruction it decodes to, a reserved word as no operation, a
host store as itself; with nothing arrived, waits. -/
def step (s : State) : Host.Outcome State Fault Refusal :=
  match takeArrival s with
  | none => awaitArrival s
  | some (.word w, s') =>
    match decode s'.geom w with
    | .ok i => exec i s'
    | .error _ => performReserved s'
  | some (.hostPixel i v, s') => performHostPixel i v s'

/-- The state with one more command word standing first at the command port, where the next step takes it. The word has `nbits`
bits, the others of its 32 are 0. The block fetches nothing (R11): this stands for the word's arrival (log 6). -/
def State.withFetchWord (s : State) (nbits w : Nat) : State :=
  { s with arrivals := .word (BitVec.ofNat 32 (w % 2 ^ nbits)) :: s.arrivals }

end Sys2Proof.Machine
end

