-- ==== Sys2Proof/Machine/Assembler.lean ====
section
/-! DEFINITION. The assembler syntax of R67 and the pseudo-operations of R68, over the characters of one line. -/

namespace Sys2Proof.Machine

/-! ### Pseudo-operations (R68) -/

/-- `PRESS b` is `SETBTN b, 1`. -/
def pressOp (id : Byte) : List Instr := [.setbtn id true]
/-- `RELEASE b` is `SETBTN b, 0`. -/
def releaseOp (id : Byte) : List Instr := [.setbtn id false]
/-- `CM.FLUSH` is `CM.DIRTY 1`, `CM.CURSOR 0, 0`, `WRNOTIFY`. -/
def flushOp : List Instr := [.cmDirty true, .cmCursor 0 0, .wrnotify]

/-! ### Operands (R67) -/

/-- The value of a digit, `0`..`9` and `a`..`f` in either case. -/
def digitValue (ch : Char) : Option Nat :=
  let n := ch.toNat
  if 48 ≤ n ∧ n ≤ 57 then some (n - 48)
  else if 97 ≤ n ∧ n ≤ 102 then some (n - 87)
  else if 65 ≤ n ∧ n ≤ 70 then some (n - 55)
  else none

/-- The number the digits write in a base, after what has been read. -/
def digitsFrom (base : Nat) (acc : Nat) : List Char → Option Nat
  | [] => some acc
  | ch :: rest =>
    match digitValue ch with
    | some d => if d < base then digitsFrom base (acc * base + d) rest else none
    | none => none

/-- A number: decimal, or hexadecimal with `0x`, or binary with `0b` (R67). -/
def numberOf (t : List Char) : Option Nat :=
  match t with
  | [] => none
  | ['0', 'x'] => none
  | ['0', 'b'] => none
  | '0' :: 'x' :: ds => digitsFrom 16 0 ds
  | '0' :: 'b' :: ds => digitsFrom 2 0 ds
  | ds => digitsFrom 10 0 ds

/-- A number that fits `bits` bits. -/
def numberBelow (bits : Nat) (t : List Char) : Option (BitVec bits) :=
  match numberOf t with
  | some n => if n < 2 ^ bits then some (BitVec.ofNat bits n) else none
  | none => none

/-- A one-bit operand. -/
def bitOperand (t : List Char) : Option Bool := (numberBelow 1 t).map fun v => v.getLsbD 0

/-- A button operand: one of the six names or a number (R67). -/
def buttonOperand (t : List Char) : Option Byte :=
  if t = ['U', 'P'] then some 0
  else if t = ['D', 'O', 'W', 'N'] then some 1
  else if t = ['L', 'E', 'F', 'T'] then some 2
  else if t = ['R', 'I', 'G', 'H', 'T'] then some 3
  else if t = ['A'] then some 4
  else if t = ['B'] then some 5
  else numberBelow 8 t

/-- One term of a flags operand: a flag's name or a number (R67). -/
def flagTerm (t : List Char) : Option (BitVec 4) :=
  if t = ['O', 'N'] then some maskOn
  else if t = ['I', 'N', 'V'] then some maskInv
  else if t = ['R', 'E', 'M', 'A', 'P'] then some maskRemap
  else if t = ['C', 'O', 'M', 'R', 'E', 'V'] then some maskComrev
  else numberBelow 4 t

/-- Terms joined with bitwise or. -/
def flagTerms (acc : BitVec 4) : List (List Char) → Option (BitVec 4)
  | [] => some acc
  | t :: rest =>
    match flagTerm t with
    | some v => flagTerms (acc ||| v) rest
    | none => none

/-! ### Lines (R67) -/

/-- The parts between occurrences of a separator. -/
def splitChars (sep : Char) : List Char → List (List Char)
  | [] => [[]]
  | ch :: rest =>
    match splitChars sep rest with
    | [] => [[ch]]
    | part :: parts => if ch = sep then [] :: part :: parts else (ch :: part) :: parts

/-- Without spaces before the first and after the last other character. -/
def trimChars (t : List Char) : List Char :=
  ((t.dropWhile (· = ' ')).reverse.dropWhile (· = ' ')).reverse

/-- A flags operand, its terms joined with `|` (R67). -/
def flagsOperand (t : List Char) : Option (BitVec 4) := flagTerms 0 ((splitChars '|' t).map trimChars)

/-- What a mnemonic and its operands assemble to (R62, R67, R68). -/
def assembleParts (mnemonic : List Char) (operands : List (List Char)) : Option (List Instr) :=
  if mnemonic = "NOP".toList then (match operands with | [] => some [.nop] | _ => none)
  else if mnemonic = "SETUP".toList then
    (match operands with | [k] => (bitOperand k).map fun ok => [.setup ok] | _ => none)
  else if mnemonic = "TEARDOWN".toList then (match operands with | [] => some [.teardown] | _ => none)
  else if mnemonic = "SETBTN".toList then
    (match operands with
    | [i, k] => (buttonOperand i).bind fun id => (bitOperand k).map fun pressed => [.setbtn id pressed]
    | _ => none)
  else if mnemonic = "WRNOTIFY".toList then (match operands with | [] => some [.wrnotify] | _ => none)
  else if mnemonic = "COMPOSITE".toList then (match operands with | [] => some [.composite] | _ => none)
  else if mnemonic = "CM.DATA".toList then
    (match operands with
    | [p, c, v] =>
      (numberBelow 8 p).bind fun p => (numberBelow 8 c).bind fun c => (numberBelow 8 v).map fun v => [.cmData p c v]
    | _ => none)
  else if mnemonic = "CM.CURSOR".toList then
    (match operands with
    | [p, c] => (numberBelow 8 p).bind fun p => (numberBelow 8 c).map fun c => [.cmCursor p c]
    | _ => none)
  else if mnemonic = "CM.FLAGS".toList then
    (match operands with | [f] => (flagsOperand f).map fun f => [.cmFlags f] | _ => none)
  else if mnemonic = "CM.CONTRAST".toList then
    (match operands with | [k] => (numberBelow 8 k).map fun k => [.cmContrast k] | _ => none)
  else if mnemonic = "CM.DIRTY".toList then
    (match operands with | [d] => (bitOperand d).map fun d => [.cmDirty d] | _ => none)
  else if mnemonic = "PRESS".toList then
    (match operands with | [i] => (buttonOperand i).map pressOp | _ => none)
  else if mnemonic = "RELEASE".toList then
    (match operands with | [i] => (buttonOperand i).map releaseOp | _ => none)
  else if mnemonic = "CM.FLUSH".toList then (match operands with | [] => some flushOp | _ => none)
  else none

/-- One line (R67): a `;` starts a comment that runs to the end of the line; the mnemonic stands first, then the operands
separated by commas. A line with nothing else on it assembles to nothing. Log 16. -/
def assembleLine (line : List Char) : Option (List Instr) :=
  let code := trimChars (line.takeWhile (· ≠ ';'))
  let mnemonic := code.takeWhile (· ≠ ' ')
  let rest := trimChars (code.dropWhile (· ≠ ' '))
  if code = [] then some []
  else assembleParts mnemonic (if rest = [] then [] else (splitChars ',' rest).map trimChars)

/-- The command words of one line (R67, R68). -/
def assembleWords (line : List Char) : Option (List Word) := (assembleLine line).map fun is => is.map encode

end Sys2Proof.Machine
end

