-- ==== Sys2Proof/Safety.lean ====
section
/-! DEFINITION. What statements about the machine are said in: the shape every reachable state has, what no operation touches, the
order of raise calls on a line (R107), and which words a cautious claim lets a run pass through (K1 to K3, K7, K8). -/

namespace Sys2Proof.Machine

/-! ### The invariant of the machine -/

/-- The Display Controller Model has PAGES x COLS bytes (R17) and its cursor is in range (R18). -/
abbrev ControllerModel.WF (g : Geometry) (cm : ControllerModel) : Prop :=
  Memory.Shaped g.pages g.cols cm.vram ∧ cm.cursor.page < g.pages ∧ cm.cursor.col < g.cols

/-- The luminance map has H x W bits (R16), the model is well formed, and every line is the logical NOT of its button's pressed
state (R14, R107 (a)). -/
abbrev Session.WF (g : Geometry) (ss : Session) : Prop :=
  Memory.Shaped g.height g.width ss.lum ∧ ss.cm.WF g ∧ ∀ e ∈ ss.buttons.toList, e.line = levelOf e.pressed

/-- The parameters are legal (R5, R15), the pixel buffer has W*H words (R22, R163), and a live session is well formed. -/
abbrev State.WF (s : State) : Prop :=
  s.geom.WF ∧ WiringDistinct s.wiring ∧ s.pix.length = s.geom.width * s.geom.height ∧ ∀ ss ∈ s.session, ss.WF s.geom

/-! ### Frames -/

/-- What no operation and no action writes: the parameters, the words still to arrive, the stream index. -/
abbrev SameMachine (s t : State) : Prop :=
  t.geom = s.geom ∧ t.wiring = s.wiring ∧ t.arrivals = s.arrivals ∧ t.sp = s.sp

/-- The answer is a next state. -/
abbrev Completes (o : Host.Outcome State Fault Refusal) : Prop := ∃ t, o = .next t

/-! ### Raise calls on a line (R107) -/

/-- The levels raised on a line since the last successful SETUP, after one more event. -/
def levelsStep (line : Line) (levels : List Bool) : Event → List Bool
  | .setupResult .success => []
  | .setupResult .failure => levels
  | .raiseLine l v => if l = line then levels ++ [v] else levels

/-- The levels raised on a line since the last successful SETUP, in order. -/
def levelsSinceSetup (line : Line) (events : List Event) : List Bool := events.foldl (levelsStep line) []

/-- Each level is the opposite of the one before it, the first of `level`. -/
def alternatesFrom (level : Bool) : List Bool → Bool
  | [] => true
  | v :: rest => (v == !level) && alternatesFrom v rest

/-- The Button Bridge's promise while live (R107): on each button's line the levels raised since SETUP alternate, the first is 0,
and the last is the level the line has; and the state is well formed. -/
abbrev State.BridgeInv (s : State) : Prop :=
  s.WF ∧ ∀ ss ∈ s.session, ∀ b : ButtonId,
    alternatesFrom true (levelsSinceSetup (entry s.wiring b) s.events) = true ∧
      (levelsSinceSetup (entry s.wiring b) s.events).getLastD true = (entry ss.buttons b).line

/-! ### Words a cautious claim rests on -/

/-- SETUP while live (K7) and a display or engine word while not live (K8) are performed as R116 and R118 say; a claim "should
not pass through" the first, and a model may refuse both. -/
def reliedOn (i : Instr) (live : Bool) : Bool :=
  match i with
  | .nop | .teardown | .setbtn _ _ => true
  | .setup _ => !live
  | .wrnotify | .composite | .cmData _ _ _ | .cmCursor _ _ | .cmFlags _ | .cmContrast _ | .cmDirty _ => live

/-- The next step rests on nothing the spec advises against: no reserved word (K1 to K3), no word of K7 or K8. -/
def safeStep (s : State) : Bool :=
  match takeArrival s with
  | none => true
  | some (.word w, _) => match decode s.geom w with | .ok i => reliedOn i s.live | .error _ => false
  | some (.hostPixel i _, _) => decide (i < s.pix.length)

/-- The next `n` steps all answer a next state and are all safe. -/
def safeRun : Nat → State → Bool
  | 0, _ => true
  | n + 1, s => safeStep s && match step s with | .next t => safeRun n t | .fault _ => false | .refused _ => false

end Sys2Proof.Machine
end

