-- ==== Sys2Proof/Certificates/Slice0/Obligations.lean ====
section
/-! DEFINITION. The statements for the provers, in the order encoding, the step, reset and session, buttons, decoder, compositor,
engine actions, the whole machine. Each docstring names the rule of spec/ it formalises. -/

open Sys2Proof Sys2Proof.Machine

/-! ### Encoding -/

/-- R60 to R63: the decoder reads back every instruction from its command word, every operand at every value the encoding admits. -/
def Obligations.DecodeOfEncodeIsTheInstruction : Prop :=
  ∀ (g : Geometry) (i : Instr), i.wf g = true → decode g (encode i) = .ok i

/-- R62, R64: a word the decoder accepts is the command word of the instruction it reads, whose operands are in range; so each word
has one meaning and no must-be-zero bit is ignored. -/
def Obligations.EncodeOfDecodeIsTheWord : Prop :=
  ∀ (g : Geometry) (w : Word) (i : Instr), decode g w = .ok i → i.wf g = true ∧ encode i = w

/-- R62: a word is accepted exactly when it matches a row of the opcode map, and then as that row's mnemonic. -/
def Obligations.DecoderAcceptsExactlyTheOpcodeMap : Prop :=
  ∀ (g : Geometry) (w : Word),
    ((∃ i, decode g w = .ok i) ↔ ∃ r ∈ opcodeTable, r.accepts g w = true) ∧
      ∀ i, decode g w = .ok i → ∃ r ∈ opcodeTable, r.accepts g w = true ∧ r.mnemonic = i.mnemonic

/-- R62: "No word matches two rows." -/
def Obligations.NoWordMatchesTwoRows : Prop :=
  ∀ w : Word, ∀ r ∈ opcodeTable, ∀ r' ∈ opcodeTable, w &&& r.mask = r.pattern → w &&& r'.mask = r'.pattern → r = r'

/-- 95_test_vectors section 2.7 (R61 to R64), V-X2 to V-X17, at PAGES = 8, COLS = 128: words of the spec, legal and reserved. -/
def Obligations.SpecWordsDecodeAsPrinted : Prop :=
  let g : Geometry := { pages := 8, cols := 128 }
  decode g 0x01000001 = .ok (.setup true) ∧ decode g 0x02000000 = .ok .teardown ∧
    decode g 0x03050001 = .ok (.setbtn 5 true) ∧ decode g 0x03FF0000 = .ok (.setbtn 255 false) ∧
    decode g 0x04000000 = .ok .wrnotify ∧ decode g 0x05000000 = .ok .composite ∧
    decode g 0x100001A5 = .ok (.cmData 0 1 0xA5) ∧ decode g 0x11031100 = .ok (.cmCursor 3 17) ∧
    decode g 0x12000009 = .ok (.cmFlags 9) ∧ decode g 0x00000001 = .error .operandNotZero ∧
    decode g 0x03040002 = .error .operandNotZero ∧ decode g 0x06000000 = .error .undefinedOp ∧
    decode g 0x10080000 = .error .pageOutOfRange

/-- R67: the spec's three examples of assembled lines, and R68's CM.FLUSH. -/
def Obligations.AssemblerGivesTheSpecWords : Prop :=
  assembleWords "SETBTN A, 1".toList = some [0x03040001] ∧
    assembleWords "CM.FLAGS ON|REMAP".toList = some [0x12000005] ∧
    assembleWords "CM.DATA 0, 1, 0xA5".toList = some [0x100001A5] ∧
    assembleWords "CM.FLUSH".toList = some [0x14000001, 0x11000000, 0x04000000]

/-! ### The step -/

/-- R60, R69: the step on a command word that decodes to `i` is `exec i`, on the state that has consumed the word and advanced
the stream index by 1. -/
def Obligations.StepRunsTheDecodedInstruction : Prop :=
  ∀ (s : State) (w : Word) (rest : List Arrival) (i : Instr),
    s.arrivals = .word w :: rest → decode s.geom w = .ok i →
      step s = exec i { s with arrivals := rest, sp := s.sp + 1 }

/-- A word that matches no row of R62 is passed over: nothing changes but that the word is consumed. R64's "The block performs a
reserved word as no operation at all", R69's "including reserved words"; that the model follows it and does not refuse the word is
the model's choice, log 7. -/
def Obligations.ReservedWordIsNoOperation : Prop :=
  ∀ (s : State) (w : Word) (rest : List Arrival),
    s.arrivals = .word w :: rest → (∀ r ∈ opcodeTable, r.accepts s.geom w = false) →
      step s = .next { s with arrivals := rest, sp := s.sp + 1 }

/-- The same for an action whose operands are out of range (R64 (c)), given to `exec` directly; the model's choice, log 7. -/
def Obligations.OutOfRangeActionIsNoOperation : Prop :=
  ∀ (s : State) (i : Instr), i.wf s.geom = false → exec i s = .next s

/-- R178, "read the frame": the host overwrites one word of its buffer between operations; nothing else changes, and it is no
command word. The form of the arrival is the model's choice, log 10. -/
def Obligations.HostStoreChangesOnlyItsPixel : Prop :=
  ∀ (s : State) (n : Nat) (v : Word) (rest : List Arrival), s.arrivals = .hostPixel n v :: rest →
    ∃ t, step s = .next t ∧ t = { s with arrivals := rest, pix := t.pix } ∧ t.pix.length = s.pix.length ∧
      (n < s.pix.length → t.pix[n]? = some v) ∧ ∀ k, k ≠ n → t.pix[k]? = s.pix[k]?

/-- R69, R11: words are performed strictly in the order they arrive, one at a time; the stream index advances by 1 per word, and
no operation changes which word comes next. -/
def Obligations.WordsArePerformedInOrder : Prop :=
  ∀ (s t : State) (w : Word) (rest : List Arrival),
    s.arrivals = .word w :: rest → step s = .next t → t.arrivals = rest ∧ t.sp = s.sp + 1

/-- R5, R15: no step changes PAGES, COLS or WIRING. -/
def Obligations.ParametersNeverChange : Prop :=
  ∀ s t : State, step s = .next t → t.geom = s.geom ∧ t.wiring = s.wiring

/-! ### Invariants -/

/-- R14, R16, R17, R18, R22: every step keeps the arrays at their sizes, the cursor in range, and every line the logical NOT of
its button. -/
def Obligations.StepKeepsTheMachineWellFormed : Prop :=
  ∀ s t : State, s.WF → step s = .next t → t.WF

/-- The reset state is well formed. -/
def Obligations.ResetIsWellFormed : Prop := State.reset.WF

/-- R107 (a), (b): while live the levels raised on each button's line since SETUP alternate, the first is 0, and the last is the
level the line has; every step keeps this. -/
def Obligations.StepKeepsTheBridgePromise : Prop :=
  ∀ s t : State, s.BridgeInv → step s = .next t → t.BridgeInv

/-- The reset state meets the Button Bridge's promise. -/
def Obligations.ResetKeepsTheBridgePromise : Prop := State.reset.BridgeInv

/-- From a well-formed state every run of any length completes, in a well-formed state. That no operation faults is R135. That a
reserved word is passed over, where R64 and K1 to K3 advise a model to refuse it, is the model's choice, log 7; that an empty port
waits is the model's choice, log 6. -/
def Obligations.WellFormedRunsNeverStop : Prop :=
  ∀ (n : Nat) (s : State), s.WF → ∃ t, Sys2Proof.core.run n s = .next t ∧ State.WF t

/-- Every operation completes on every state and operand, COMPOSITE on a pixel buffer of W*H words, the boot requirement of R163
(log 11). R135: "every operation is total on every state and every operand value". That CM.DATA and CM.CURSOR with operands out of
range, given to `exec` directly, complete without effect is the model's choice, log 7. -/
def Obligations.EveryOperationIsTotal : Prop :=
  ∀ (i : Instr) (s : State),
    (i ≠ .composite ∨ s.pix.length = s.geom.width * s.geom.height) → Completes (exec i s)

/-! ### Reset and session -/

/-- R160: after hardware reset the block is in exactly the state TEARDOWN leaves: not live, the session's state not there, `pix`
whatever the host put there, no event; for every value of the parameters, and for the reset state of the machine itself, whose buffer
holds PIX_INIT. -/
def Obligations.ResetIsTheStateTeardownLeaves : Prop :=
  (∀ (g : Geometry) (wiring : PerButton Line) (pix : List Word),
    (State.resetWith g wiring pix).live = false ∧ (State.resetWith g wiring pix).session = none ∧
      (State.resetWith g wiring pix).pix = pix ∧ (State.resetWith g wiring pix).events = [] ∧
      exec .teardown (State.resetWith g wiring pix) = .next (State.resetWith g wiring pix)) ∧
    Sys2Proof.core.reset = State.reset ∧ State.reset.live = false ∧ State.reset.session = none ∧ State.reset.events = [] ∧
    (∀ n, n < State.reset.geom.width * State.reset.geom.height → State.reset.pix[n]? = some (Config.pixInit n)) ∧
    exec .teardown State.reset = .next State.reset

/-- R115. -/
def Obligations.NopChangesNothing : Prop := ∀ s : State, exec .nop s = .next s

/-- R116: SETUP while live or with ok = 0 returns failure and changes nothing else; otherwise it begins a session with every button
released and every line high, appends SetupResult(success) and no raise call, leaves `pix`, and gives the luminance map and the
controller model legal contents. -/
def Obligations.SetupFollowsItsRule : Prop :=
  ∀ (ok : Bool) (s : State),
    ((s.live = true ∨ ok = false) →
        exec (.setup ok) s = .next { s with events := s.events ++ [.setupResult .failure] }) ∧
      (s.live = false → ok = true → ∃ t ss, exec (.setup ok) s = .next t ∧ t.session = some ss ∧ t.live = true ∧
        (∀ b, entry ss.buttons b = { pressed := false, line := true }) ∧
        t.events = s.events ++ [.setupResult .success] ∧ t.pix = s.pix ∧ SameMachine s t ∧
        Memory.Shaped s.geom.height s.geom.width ss.lum ∧ (s.geom.WF → ss.cm.WF s.geom))

/-- R162, R116 corner case (5): each successful SETUP takes the next draw of LUM_INIT and of the whole of CM_INIT (vram, cursor,
dirty, flags, contrast), so no two of a run use the same one, and the cursor is not made to start at the origin (N8). That draws are
numbered, and that a drawn cursor is taken modulo PAGES and COLS, is the model's form, log 4; the values are free. -/
def Obligations.EachSetupDrawsAfresh : Prop :=
  ∀ s : State, s.session = none → ∃ t ss, exec (.setup true) s = .next t ∧ t.session = some ss ∧ t.draws = s.draws + 1 ∧
    (∀ r x, r < s.geom.height → x < s.geom.width → readBit ss.lum r x = Config.lumInit s.draws r x) ∧
    (∀ p c, p < s.geom.pages → c < s.geom.cols → readByte ss.cm.vram p c = Config.vramInit s.draws p c) ∧
    ss.cm.cursor = { page := Config.pageInit s.draws % s.geom.pages, col := Config.colInit s.draws % s.geom.cols } ∧
    ss.cm.dirty = Config.dirtyInit s.draws ∧ ss.cm.flags = Config.flagsInit s.draws ∧
    ss.cm.contrast = Config.contrastInit s.draws

/-- R117: TEARDOWN ends the session: what exists only while live is gone, nothing else changes, no event; a second one is a
no-op. -/
def Obligations.TeardownEndsTheSession : Prop :=
  ∀ s : State, exec .teardown s = .next { s with session := none } ∧
    exec .teardown { s with session := none } = .next { s with session := none }

/-- R174: after TEARDOWN and SETUP every button is released and every line high, whatever was held. -/
def Obligations.HeldButtonsAreForgotten : Prop :=
  ∀ s : State, ∃ t u ss, exec .teardown s = .next t ∧ exec (.setup true) t = .next u ∧ u.session = some ss ∧
    (∀ b, entry ss.buttons b = { pressed := false, line := true }) ∧ u.pix = s.pix

/-- R162: "Nothing is carried from one session to the next except `pix` (the host's) and `WIRING`": two machines that differ only in
their sessions are the same machine after TEARDOWN and SETUP, if the environment makes them the same draw (the draws are numbered,
log 4, so equal states are given equal draws). -/
def Obligations.NothingElseCrossesSessions : Prop :=
  ∀ (s s' t t' u u' : State) (ok : Bool), s' = { s with session := s'.session } →
    exec .teardown s = .next t → exec (.setup ok) t = .next u →
    exec .teardown s' = .next t' → exec (.setup ok) t' = .next u' → u = u'

/-- R145, R118: while not live only SETUP 1 has an effect; SETUP 0 only returns failure; every other word is a silent no-op. -/
def Obligations.WhileNotLiveOnlySetupActs : Prop :=
  ∀ (i : Instr) (s : State), s.session = none → i ≠ .setup true →
    exec i s = .next (if i = .setup false then { s with events := s.events ++ [.setupResult .failure] } else s)

/-- R117 corner case (2), R145: a session is begun by SETUP 1 only and ended by TEARDOWN only. -/
def Obligations.SessionsBeginBySetupAndEndByTeardown : Prop :=
  ∀ (i : Instr) (s t : State), exec i s = .next t →
    (s.live = false → t.live = true → i = .setup true) ∧ (s.live = true → t.live = false → i = .teardown)

/-! ### Button Bridge -/

/-- R108: 0 = Up, 1 = Down, 2 = Left, 3 = Right, 4 = A, 5 = B; 6..255 are out of the valid set. -/
def Obligations.ButtonIdsAreNumbered : Prop :=
  buttonOfId 0 = some .up ∧ buttonOfId 1 = some .down ∧ buttonOfId 2 = some .left ∧ buttonOfId 3 = some .right ∧
    buttonOfId 4 = some .aButton ∧ buttonOfId 5 = some .bButton ∧ ∀ id : Byte, 5 < id.toNat → buttonOfId id = none

/-- R106: the three no-op cases; and on a transition exactly one raise call on the button's line with level NOT s, the button's
line and stored state updated, no other button and nothing else changed. -/
def Obligations.SetbtnFollowsItsRule : Prop :=
  ∀ (id : Byte) (pressed : Bool) (s : State),
    (s.session = none → exec (.setbtn id pressed) s = .next s) ∧
      (5 < id.toNat → exec (.setbtn id pressed) s = .next s) ∧
      ∀ ss b, s.session = some ss → buttonOfId id = some b →
        (pressed = (entry ss.buttons b).pressed → exec (.setbtn id pressed) s = .next s) ∧
          (pressed ≠ (entry ss.buttons b).pressed →
            ∃ t tab, exec (.setbtn id pressed) s = .next t ∧
              t = { s with session := some { ss with buttons := tab },
                           events := s.events ++ [.raiseLine (entry s.wiring b) (!pressed)] } ∧
              entry tab b = { pressed := pressed, line := !pressed } ∧
              ∀ b', b' ≠ b → entry tab b' = entry ss.buttons b')

/-- R106 corner case (2), ARBY section 8: a report made twice raises at most once: the first appends at most one event, and the second
changes nothing. -/
def Obligations.RepeatedReportChangesNothing : Prop :=
  ∀ (id : Byte) (pressed : Bool) (s t : State),
    exec (.setbtn id pressed) s = .next t →
      (∃ es, t.events = s.events ++ es ∧ es.length ≤ 1) ∧ exec (.setbtn id pressed) t = .next t

/-- R106 corner case (5): a press and a release of a released button emit two raise calls, level 0 then level 1, and leave the table
as it was, when the line is as R14 says. -/
def Obligations.PressAndReleaseRaiseTwice : Prop :=
  ∀ (id : Byte) (b : ButtonId) (s : State) (ss : Session), s.session = some ss → buttonOfId id = some b →
    entry ss.buttons b = { pressed := false, line := true } →
    ∃ t u, exec (.setbtn id true) s = .next t ∧ exec (.setbtn id false) t = .next u ∧ u.session = s.session ∧
      u.events = s.events ++ [.raiseLine (entry s.wiring b) false, .raiseLine (entry s.wiring b) true]

/-- R106 corner case (4): buttons are independent: reports of two ids made in either order leave the same button table. -/
def Obligations.ReportsOfDistinctIdsCommute : Prop :=
  ∀ (id id' : Byte) (p p' : Bool) (s t u t' u' : State), id ≠ id' →
    exec (.setbtn id p) s = .next t → exec (.setbtn id' p') t = .next u →
    exec (.setbtn id' p') s = .next t' → exec (.setbtn id p) t' = .next u' → u.session = u'.session

/-! ### Display Decoder -/

/-- R81, R41: bit y of `vram[p][c]` goes to row 8p+y, column c; every element of the H x W map is defined. -/
def Obligations.DecodeUnpacksEveryByte : Prop :=
  ∀ (g : Geometry) (vram : List (List Byte)), Memory.Shaped g.pages g.cols vram →
    Memory.Shaped g.height g.width (decodeVram g vram) ∧
      ∀ (p c y : Nat) (v : Byte), Memory.read vram p c = some v → y < 8 →
        Memory.read (decodeVram g vram) (8 * p + y) c = some (v.getLsbD y)

/-- R82 (d): `Decode` is a bijection between byte arrays PAGES x COLS and bit arrays H x W. -/
def Obligations.DecodeIsABijection : Prop :=
  ∀ g : Geometry,
    (∀ vram vram', Memory.Shaped g.pages g.cols vram → Memory.Shaped g.pages g.cols vram' →
      decodeVram g vram = decodeVram g vram' → vram = vram') ∧
    ∀ lum, Memory.Shaped g.height g.width lum → ∃ vram, Memory.Shaped g.pages g.cols vram ∧ decodeVram g vram = lum

/-- R83: WRNOTIFY decodes and clears `dirty` exactly when live with the cursor at (0, 0) and `dirty` set; otherwise it changes
nothing. -/
def Obligations.WrnotifyFollowsItsRule : Prop :=
  ∀ s : State, (s.session = none → exec .wrnotify s = .next s) ∧
    ∀ ss, s.session = some ss →
      exec .wrnotify s =
        .next (if ss.cm.cursor.page = 0 ∧ ss.cm.cursor.col = 0 ∧ ss.cm.dirty = true then
          { s with session := some { ss with lum := decodeVram s.geom ss.cm.vram, cm := { ss.cm with dirty := false } } }
        else s)

/-- R82 (a), V-D7: decoding the same unchanged memory again yields the same luminance map. -/
def Obligations.DecodingAgainGivesTheSameMap : Prop :=
  ∀ (s : State) (ss : Session), s.session = some ss → ss.cm.cursor = { page := 0, col := 0 } → ss.cm.dirty = true →
    ∃ t u v, exec .wrnotify s = .next t ∧ exec (.cmDirty true) t = .next u ∧ exec .wrnotify u = .next v ∧
      v.session = t.session

/-- R81, R82 (b), R150: what a decode leaves in `lum` depends on `vram` alone: not on the flags, the contrast, the old map or the
buttons. -/
def Obligations.DecodeReadsOnlyTheController : Prop :=
  ∀ (s s' t t' : State) (ss ss' tt tt' : Session), s.geom = s'.geom → s.session = some ss → s'.session = some ss' →
    ss.cm.vram = ss'.cm.vram → decodeDue ss.cm = true → decodeDue ss'.cm = true →
    exec .wrnotify s = .next t → exec .wrnotify s' = .next t' → t.session = some tt → t'.session = some tt' →
    tt.lum = tt'.lum

/-- R68: CM.FLUSH always decodes when live: after its three words the map is the decode of `vram`, the cursor is at the origin and
`dirty` is clear. -/
def Obligations.FlushAlwaysDecodes : Prop :=
  ∀ (s : State) (ss : Session), s.geom.WF → s.session = some ss →
    ∃ t u v, exec (.cmDirty true) s = .next t ∧ exec (.cmCursor 0 0) t = .next u ∧ exec .wrnotify u = .next v ∧
      v = { s with session := some { ss with
        lum := decodeVram s.geom ss.cm.vram
        cm := { ss.cm with cursor := { page := 0, col := 0 }, dirty := false } } }

/-! ### Display Compositor -/

/-- R92: V = floor(255 * (contrast + 256) / 512) = 127 + floor(contrast / 2), between 127 and 254. -/
def Obligations.GrayLevelOfContrast : Prop :=
  ∀ k : Byte, (grayLevel k).toNat = 255 * (k.toNat + 256) / 512 ∧ (grayLevel k).toNat = 127 + k.toNat / 2 ∧
    127 ≤ (grayLevel k).toNat ∧ (grayLevel k).toNat ≤ 254

/-- R93: GRAY = V V V FF, BLACK = 000000FF; the inverted flag swaps foreground and background. -/
def Obligations.InversionSwapsTheColours : Prop :=
  ∀ (f : BitVec 4) (k : Byte),
    foreground f k = (if f.getLsbD 1 then 0x000000FF#32 else grayLevel k ++ grayLevel k ++ grayLevel k ++ 0xFF#8) ∧
      background f k = (if f.getLsbD 1 then grayLevel k ++ grayLevel k ++ grayLevel k ++ 0xFF#8 else 0x000000FF#32)

/-- R91: with the display off COMPOSITE leaves everything as it was, whatever the other flags, contrast and map are. -/
def Obligations.DisplayOffLeavesThePixels : Prop :=
  ∀ (s : State) (ss : Session), s.session = some ss → ss.cm.flags.getLsbD 0 = false → exec .composite s = .next s

/-- R97, R94 to R96: COMPOSITE is a no-op when not live or the display is off; otherwise it writes every word of the buffer, the
pixel at row y, column x from the source row and column the mirror flags select, and changes nothing else. -/
def Obligations.CompositeFollowsItsRule : Prop :=
  ∀ s : State, (s.session = none → exec .composite s = .next s) ∧
    ∀ ss, s.session = some ss →
      (ss.cm.flags.getLsbD 0 = false → exec .composite s = .next s) ∧
      (ss.cm.flags.getLsbD 0 = true → s.pix.length = s.geom.width * s.geom.height →
        ∃ t, exec .composite s = .next t ∧ t = { s with pix := t.pix } ∧ t.pix.length = s.geom.width * s.geom.height ∧
          ∀ y x, y < s.geom.height → x < s.geom.width →
            let V : Byte := BitVec.ofNat 8 (127 + ss.cm.contrast.toNat / 2)
            let gray : Word := V ++ V ++ V ++ 0xFF#8
            let black : Word := 0x000000FF
            let fg := if ss.cm.flags.getLsbD 1 then black else gray
            let bg := if ss.cm.flags.getLsbD 1 then gray else black
            let sx := if ss.cm.flags.getLsbD 2 then s.geom.width - 1 - x else x
            let sy := if ss.cm.flags.getLsbD 3 then s.geom.height - 1 - y else y
            t.pix[y * s.geom.width + x]? = some (if readBit ss.lum sy sx then fg else bg))

/-- R163, K15: on a buffer of another size than W*H a COMPOSITE that would write it is refused; log 11. -/
def Obligations.WrongSizedBufferIsRefused : Prop :=
  ∀ (s : State) (ss : Session), s.session = some ss → ss.cm.flags.getLsbD 0 = true →
    s.pix.length ≠ s.geom.width * s.geom.height → exec .composite s = .refused .pixelBufferSize

/-- R98 (c): a COMPOSITE straight after a COMPOSITE changes nothing. -/
def Obligations.CompositeIsIdempotent : Prop :=
  ∀ s t : State, exec .composite s = .next t → exec .composite t = .next t

/-- R98 (d): with the display on every word of `pix` is GRAY(V(contrast)) or BLACK. -/
def Obligations.EveryPixelIsGrayOrBlack : Prop :=
  ∀ (s t : State) (ss : Session), s.session = some ss → ss.cm.flags.getLsbD 0 = true → exec .composite s = .next t →
    ∀ w ∈ t.pix, w = grayWord ss.cm.contrast ∨ w = blackWord

/-- R98 (e): the number of foreground pixels is the number of 1 bits of the map, whatever the mirror flags and inversion. -/
def Obligations.ForegroundPixelsAreTheLitBits : Prop :=
  ∀ (s t : State) (ss : Session), s.WF → s.session = some ss → ss.cm.flags.getLsbD 0 = true →
    exec .composite s = .next t →
    t.pix.count (foreground ss.cm.flags ss.cm.contrast) = ss.lum.flatten.count true

/-- R98 (b), ARBY section 8: the frame with inversion and both mirrors is the plain frame with gray and black swapped and both axes
reversed. -/
def Obligations.InvertedHalfTurnSwapsThePlainFrame : Prop :=
  ∀ (s : State) (ss : Session), s.WF → s.session = some ss →
    ∃ a p b q, exec (.cmFlags 0b0001) s = .next a ∧ exec .composite a = .next p ∧
      exec (.cmFlags 0b1111) s = .next b ∧ exec .composite b = .next q ∧
      ∀ y x, y < s.geom.height → x < s.geom.width →
        let plain := p.pix[(s.geom.height - 1 - y) * s.geom.width + (s.geom.width - 1 - x)]?
        let turned := q.pix[y * s.geom.width + x]?
        (plain = some (grayWord ss.cm.contrast) ∧ turned = some blackWord) ∨
          (plain = some blackWord ∧ turned = some (grayWord ss.cm.contrast))

/-- R98 (a), ARBY section 8 (S2): decode then composite with display on, no inversion, no mirroring, contrast 0 maps each 1 bit of
the controller memory to 7F7F7FFF and each 0 bit to black, at its own place. -/
def Obligations.DecodeThenCompositeShowsTheMemory : Prop :=
  ∀ (s : State) (ss : Session), s.WF → s.session = some ss → decodeDue ss.cm = true → ss.cm.flags = 0b0001 →
    ss.cm.contrast = 0 →
    ∃ t u, exec .wrnotify s = .next t ∧ exec .composite t = .next u ∧
      ∀ p c y v, Memory.read ss.cm.vram p c = some v → y < 8 →
        u.pix[(8 * p + y) * s.geom.width + c]? = some (if v.getLsbD y then 0x7F7F7FFF#32 else 0x000000FF#32)

/-- R90, C3: the frame depends on the map, the flags and the contrast alone: not on `vram`, cursor, dirty, the buttons or what `pix`
held. -/
def Obligations.CompositeReadsOnlyMapFlagsContrast : Prop :=
  ∀ (s s' t t' : State) (ss ss' : Session), s.geom = s'.geom → s.session = some ss → s'.session = some ss' →
    ss.lum = ss'.lum → ss.cm.flags = ss'.cm.flags → ss.cm.contrast = ss'.cm.contrast → ss.cm.flags.getLsbD 0 = true →
    exec .composite s = .next t → exec .composite s' = .next t' → t.pix = t'.pix

/-! ### Engine-agent actions -/

/-- R126: CM.DATA writes one byte of `vram` and nothing else; a no-op while not live. -/
def Obligations.CmDataWritesOneByte : Prop :=
  ∀ (s : State) (p c v : Byte), p.toNat < s.geom.pages → c.toNat < s.geom.cols →
    (s.session = none → exec (.cmData p c v) s = .next s) ∧
      ∀ ss, s.session = some ss → Memory.Shaped s.geom.pages s.geom.cols ss.cm.vram →
        ∃ t vram, exec (.cmData p c v) s = .next t ∧
          t = { s with session := some { ss with cm := { ss.cm with vram := vram } } } ∧
          Memory.Shaped s.geom.pages s.geom.cols vram ∧ Memory.read vram p.toNat c.toNat = some v ∧
          ∀ p' c', (p' ≠ p.toNat ∨ c' ≠ c.toNat) → Memory.read vram p' c' = Memory.read ss.cm.vram p' c'

/-- R127: CM.CURSOR sets the cursor and nothing else; a no-op while not live. -/
def Obligations.CmCursorSetsTheCursor : Prop :=
  ∀ (s : State) (p c : Byte), p.toNat < s.geom.pages → c.toNat < s.geom.cols →
    (s.session = none → exec (.cmCursor p c) s = .next s) ∧
      ∀ ss, s.session = some ss → exec (.cmCursor p c) s =
        .next { s with session := some { ss with cm := { ss.cm with cursor := { page := p.toNat, col := c.toNat } } } }

/-- R128: CM.FLAGS sets the four display flags, bit by bit, and nothing else; a no-op while not live. -/
def Obligations.CmFlagsSetsTheFlags : Prop :=
  ∀ (s : State) (f : BitVec 4),
    (s.session = none → exec (.cmFlags f) s = .next s) ∧
      ∀ ss, s.session = some ss → ∃ t tt, exec (.cmFlags f) s = .next t ∧
        t = { s with session := some { ss with cm := { ss.cm with flags := tt } } } ∧
        flagOn tt = f.getLsbD 0 ∧ flagInv tt = f.getLsbD 1 ∧ flagRemap tt = f.getLsbD 2 ∧ flagComrev tt = f.getLsbD 3

/-- R129: CM.CONTRAST sets the contrast register and nothing else; a no-op while not live. -/
def Obligations.CmContrastSetsTheContrast : Prop :=
  ∀ (s : State) (k : Byte),
    (s.session = none → exec (.cmContrast k) s = .next s) ∧
      ∀ ss, s.session = some ss →
        exec (.cmContrast k) s = .next { s with session := some { ss with cm := { ss.cm with contrast := k } } }

/-- R130: CM.DIRTY sets or clears the dirty flag and nothing else; a no-op while not live. -/
def Obligations.CmDirtySetsTheDirtyFlag : Prop :=
  ∀ (s : State) (d : Bool),
    (s.session = none → exec (.cmDirty d) s = .next s) ∧
      ∀ ss, s.session = some ss →
        exec (.cmDirty d) s = .next { s with session := some { ss with cm := { ss.cm with dirty := d } } }

/-- R125 (e): an engine action changes nothing but the Display Controller Model, and emits nothing. -/
def Obligations.EngineActionsTouchOnlyTheController : Prop :=
  ∀ (i : Instr) (s t : State), i.performer = .engine → exec i s = .next t →
    t = { s with session := t.session } ∧ t.live = s.live ∧
      ∀ ss ∈ s.session, ∀ tt ∈ t.session, tt.lum = ss.lum ∧ tt.buttons = ss.buttons

/-! ### The whole machine -/

/-- R7, R17, R19, R40: of the Display Controller Model the block's operations write `dirty` only, and only clear it. -/
def Obligations.BlockOnlyClearsDirty : Prop :=
  ∀ (i : Instr) (s t : State), i.performer = .block → exec i s = .next t →
    ∀ ss ∈ s.session, ∀ tt ∈ t.session,
      tt.cm = { ss.cm with dirty := tt.cm.dirty } ∧ (tt.cm.dirty = true → ss.cm.dirty = true)

/-- R16, R22, R138: within a session only WRNOTIFY changes the luminance map, only COMPOSITE the pixels, only SETBTN the buttons and
their lines. -/
def Obligations.EachOutputHasOneWriter : Prop :=
  ∀ (i : Instr) (s t : State), exec i s = .next t →
    (t.pix ≠ s.pix → i = .composite) ∧
      ∀ ss ∈ s.session, ∀ tt ∈ t.session,
        (tt.lum ≠ ss.lum → i = .wrnotify) ∧ (tt.buttons ≠ ss.buttons → ∃ id p, i = .setbtn id p)

/-- R23: the output event sequence is only appended to, by at most one event an operation: a raise call only by SETBTN, a result only
and always by SETUP. -/
def Obligations.EventsAreOnlyAppended : Prop :=
  ∀ (i : Instr) (s t : State), exec i s = .next t →
    ∃ es, t.events = s.events ++ es ∧ es.length ≤ 1 ∧
      (∀ l v, Event.raiseLine l v ∈ es → ∃ id p, i = .setbtn id p) ∧
      ((∃ r, Event.setupResult r ∈ es) ↔ ∃ ok, i = .setup ok)

/-- R105 to R110 against R80 to R98: the Button Bridge and the display units are independent: a button report and a display word made
in either order leave the same state. -/
def Obligations.ButtonsAndDisplayCommute : Prop :=
  ∀ (i : Instr) (id : Byte) (p : Bool) (s t u t' u' : State), i.performer = .engine ∨ i = .wrnotify ∨ i = .composite →
    exec i s = .next t → exec (.setbtn id p) t = .next u →
    exec (.setbtn id p) s = .next t' → exec i t' = .next u' → u = u'
end

