-- ==== Sys2Proof/Laws/Buttons.lean ====
section
/-! SUPPORT. The laws of the six-entry tables (R108). -/

namespace Sys2Proof.Machine

variable {α : Type}

@[simp] theorem entry_setEntry_same (t : PerButton α) (b : ButtonId) (v : α) : entry (setEntry t b v) b = v := by
  cases b <;> rfl

theorem entry_setEntry_other (t : PerButton α) {b b' : ButtonId} (v : α) (h : b' ≠ b) :
    entry (setEntry t b v) b' = entry t b' := by
  cases b <;> cases b' <;> first | rfl | exact absurd rfl h

@[simp] theorem entry_allButtons (v : α) (b : ButtonId) : entry (allButtons v) b = v := by cases b <;> rfl

/-- The entries of the table are the values at the six buttons. -/
theorem mem_toList_iff (t : PerButton α) (v : α) : v ∈ t.toList ↔ ∃ b, entry t b = v := by
  constructor
  · intro h
    simp only [PerButton.toList, List.mem_cons, List.not_mem_nil, or_false] at h
    rcases h with rfl | rfl | rfl | rfl | rfl | rfl
    exacts [⟨.up, rfl⟩, ⟨.down, rfl⟩, ⟨.left, rfl⟩, ⟨.right, rfl⟩, ⟨.aButton, rfl⟩, ⟨.bButton, rfl⟩]
  · rintro ⟨b, rfl⟩; cases b <;> simp [PerButton.toList, entry]

/-- Distinct buttons are on distinct lines (R15). -/
theorem entry_injective {w : PerButton Line} (hw : WiringDistinct w) {b b' : ButtonId} (h : entry w b = entry w b') :
    b = b' := by
  simp only [WiringDistinct, PerButton.toList, List.nodup_cons, List.mem_cons, List.not_mem_nil, or_false, not_or] at hw
  obtain ⟨⟨h1, h2, h3, h4, h5⟩, ⟨h6, h7, h8, h9⟩, ⟨h10, h11, h12⟩, ⟨h13, h14⟩, h15, -⟩ := hw
  cases b <;> cases b' <;> simp_all [entry, eq_comm]

end Sys2Proof.Machine
end

