-- ==== Sys2Proof/Laws/Encoding.lean ====
section
/-! SUPPORT. The laws of the command word's four fields (R61): taking a field of a joined word, joining the fields of a word, and
masking field by field. -/

namespace Sys2Proof.Laws

variable (op f2 f1 f0 : Byte)

@[simp] theorem fieldOp_joinFields : fieldOp (joinFields op f2 f1 f0) = op := by
  refine BitVec.eq_of_getLsbD_eq fun n hn => ?_
  simp only [fieldOp, joinFields, BitVec.getLsbD_extractLsb', BitVec.getLsbD_append]
  rw [if_neg (by omega), if_neg (by omega), if_neg (by omega)]
  simp [hn, show 24 + n - 8 - 8 - 8 = n by omega]

@[simp] theorem fieldF2_joinFields : fieldF2 (joinFields op f2 f1 f0) = f2 := by
  refine BitVec.eq_of_getLsbD_eq fun n hn => ?_
  simp only [fieldF2, joinFields, BitVec.getLsbD_extractLsb', BitVec.getLsbD_append]
  rw [if_neg (by omega), if_neg (by omega), if_pos (by omega)]
  simp [hn, show 16 + n - 8 - 8 = n by omega]

@[simp] theorem fieldF1_joinFields : fieldF1 (joinFields op f2 f1 f0) = f1 := by
  refine BitVec.eq_of_getLsbD_eq fun n hn => ?_
  simp only [fieldF1, joinFields, BitVec.getLsbD_extractLsb', BitVec.getLsbD_append]
  rw [if_neg (by omega), if_pos (by omega)]
  simp [hn, show 8 + n - 8 = n by omega]

@[simp] theorem fieldF0_joinFields : fieldF0 (joinFields op f2 f1 f0) = f0 := by
  refine BitVec.eq_of_getLsbD_eq fun n hn => ?_
  simp only [fieldF0, joinFields, BitVec.getLsbD_extractLsb', BitVec.getLsbD_append]
  rw [if_pos (by omega)]
  simp [hn]

/-- A word is its four fields joined. -/
theorem joinFields_fields (w : Word) : joinFields (fieldOp w) (fieldF2 w) (fieldF1 w) (fieldF0 w) = w := by
  refine BitVec.eq_of_getLsbD_eq fun n hn => ?_
  simp only [fieldOp, fieldF2, fieldF1, fieldF0, joinFields, BitVec.getLsbD_append, BitVec.getLsbD_extractLsb']
  split
  · simp [*]
  · split
    · simp [*, show 8 + (n - 8) = n by omega]
    · split
      · simp [*, show 16 + (n - 8 - 8) = n by omega]
      · simp [show n - 8 - 8 - 8 < 8 by omega, show 24 + (n - 8 - 8 - 8) = n by omega]

/-- Masking a word masks its four fields. -/
theorem joinFields_and (mop m2 m1 m0 : Byte) :
    joinFields op f2 f1 f0 &&& joinFields mop m2 m1 m0 = joinFields (op &&& mop) (f2 &&& m2) (f1 &&& m1) (f0 &&& m0) := by
  refine BitVec.eq_of_getLsbD_eq fun n hn => ?_
  simp only [joinFields, BitVec.getLsbD_and, BitVec.getLsbD_append]
  split
  · rfl
  · split <;> [rfl; skip]
    split <;> rfl

theorem byte_and_zero (x : Byte) : x &&& 0 = 0 := by ext; simp

theorem bitField_and_high (b : Bool) : bitField b &&& 0xFE = 0 := by cases b <;> decide

theorem nibbleField_and_high : ∀ f : BitVec 4, nibbleField f &&& 0xF0 = 0 := by decide

end Sys2Proof.Laws
end

