-- ==== Sys2Proof/Laws/State.lean ====
section
/-! SUPPORT. The small lemmas of the state's updates: each field after each named operation. All are true by unfolding. -/

namespace Sys2Proof.Machine

variable (s : State) (e : Event) (f : Session → Session) (h : ControllerModel → ControllerModel) (b : ButtonId) (p : Bool)

@[simp] theorem emit_geom : (s.emit e).geom = s.geom := rfl
@[simp] theorem emit_wiring : (s.emit e).wiring = s.wiring := rfl
@[simp] theorem emit_session : (s.emit e).session = s.session := rfl
@[simp] theorem emit_pix : (s.emit e).pix = s.pix := rfl
@[simp] theorem emit_events : (s.emit e).events = s.events ++ [e] := rfl
@[simp] theorem emit_arrivals : (s.emit e).arrivals = s.arrivals := rfl
@[simp] theorem emit_sp : (s.emit e).sp = s.sp := rfl
@[simp] theorem emit_draws : (s.emit e).draws = s.draws := rfl

@[simp] theorem onSession_geom : (s.onSession f).geom = s.geom := rfl
@[simp] theorem onSession_wiring : (s.onSession f).wiring = s.wiring := rfl
@[simp] theorem onSession_session : (s.onSession f).session = s.session.map f := rfl
@[simp] theorem onSession_pix : (s.onSession f).pix = s.pix := rfl
@[simp] theorem onSession_events : (s.onSession f).events = s.events := rfl
@[simp] theorem onSession_arrivals : (s.onSession f).arrivals = s.arrivals := rfl
@[simp] theorem onSession_sp : (s.onSession f).sp = s.sp := rfl
@[simp] theorem onSession_draws : (s.onSession f).draws = s.draws := rfl

@[simp] theorem onController_geom : (s.onController h).geom = s.geom := rfl
@[simp] theorem onController_wiring : (s.onController h).wiring = s.wiring := rfl
@[simp] theorem onController_session :
    (s.onController h).session = s.session.map fun ss => { ss with cm := h ss.cm } := rfl
@[simp] theorem onController_pix : (s.onController h).pix = s.pix := rfl
@[simp] theorem onController_events : (s.onController h).events = s.events := rfl
@[simp] theorem onController_arrivals : (s.onController h).arrivals = s.arrivals := rfl
@[simp] theorem onController_sp : (s.onController h).sp = s.sp := rfl
@[simp] theorem onController_draws : (s.onController h).draws = s.draws := rfl

@[simp] theorem reportButton_geom : (s.reportButton b p).geom = s.geom := rfl
@[simp] theorem reportButton_wiring : (s.reportButton b p).wiring = s.wiring := rfl
@[simp] theorem reportButton_session :
    (s.reportButton b p).session =
      s.session.map fun ss => { ss with buttons := setEntry ss.buttons b { pressed := p, line := levelOf p } } := rfl
@[simp] theorem reportButton_pix : (s.reportButton b p).pix = s.pix := rfl
@[simp] theorem reportButton_events :
    (s.reportButton b p).events = s.events ++ [.raiseLine (entry s.wiring b) (levelOf p)] := rfl
@[simp] theorem reportButton_arrivals : (s.reportButton b p).arrivals = s.arrivals := rfl
@[simp] theorem reportButton_sp : (s.reportButton b p).sp = s.sp := rfl
@[simp] theorem reportButton_draws : (s.reportButton b p).draws = s.draws := rfl

/-- While not live an act on the session is a no-op (R118). -/
theorem onSession_of_not_live {s : State} (hs : s.session = none) : s.onSession f = s := by
  cases s; simp_all [State.onSession]

/-- While not live an engine action is a no-op (R125 (b)). -/
theorem onController_of_not_live {s : State} (hs : s.session = none) : s.onController h = s :=
  onSession_of_not_live _ hs

/-- While live an act on the session acts on the session. -/
theorem onSession_of_session {s : State} {ss : Session} (hs : s.session = some ss) :
    s.onSession f = { s with session := some (f ss) } := by
  simp [State.onSession, hs]

/-- While live an engine action acts on the Display Controller Model. -/
theorem onController_of_session {s : State} {ss : Session} (hs : s.session = some ss) :
    s.onController h = { s with session := some { ss with cm := h ss.cm } } :=
  onSession_of_session _ hs

/-- While live a report emits one event and replaces one entry of the button table. -/
theorem reportButton_of_session {s : State} {ss : Session} (hs : s.session = some ss) :
    s.reportButton b p =
      { s with
        session := some { ss with buttons := setEntry ss.buttons b { pressed := p, line := levelOf p } }
        events := s.events ++ [.raiseLine (entry s.wiring b) (levelOf p)] } := by
  simp [State.reportButton, State.emit, onSession_of_session _ hs]

@[simp] theorem live_eq : s.live = s.session.isSome := rfl

end Sys2Proof.Machine
end

