-- ==== Sys2Proof/Laws/Exec.lean ====
section
/-! SUPPORT. What each meaning that branches can do, said once: its cases with their guards. -/

namespace Sys2Proof.Machine

theorem execSetup_cases (ok : Bool) (s : State) :
    ((s.live = true ∨ ok = false) ∧ execSetup ok s = .next (s.emit (.setupResult .failure))) ∨
      (s.session = none ∧ ok = true ∧ execSetup ok s =
        .next (({ s with session := some (newSession s.geom s.draws), draws := s.draws + 1 } : State).emit
          (.setupResult .success))) := by
  cases hs : s.session <;> cases ok <;> simp [execSetup, hs]

theorem execSetbtn_cases (id : Byte) (pressed : Bool) (s : State) :
    ((∀ ss ∈ s.session, ∀ b ∈ buttonOfId id, pressed = (entry ss.buttons b).pressed) ∧
        execSetbtn id pressed s = .next s) ∨
      (∃ ss b, s.session = some ss ∧ buttonOfId id = some b ∧ pressed ≠ (entry ss.buttons b).pressed ∧
        execSetbtn id pressed s = .next (s.reportButton b pressed)) := by
  cases hs : s.session with
  | none => simp [execSetbtn, hs]
  | some ss =>
    cases hb : buttonOfId id with
    | none => simp [execSetbtn, hs, hb]
    | some b => by_cases hp : pressed = (entry ss.buttons b).pressed <;> simp [execSetbtn, hs, hb, hp]

theorem execComposite_cases (s : State) :
    ((∀ ss ∈ s.session, flagOn ss.cm.flags = false) ∧ execComposite s = .next s) ∨
      (∃ ss, s.session = some ss ∧ flagOn ss.cm.flags = true ∧ s.pix.length = s.geom.width * s.geom.height ∧
        execComposite s = .next { s with pix := compositeFrame s.geom ss.cm.flags ss.cm.contrast ss.lum }) ∨
      (s.pix.length ≠ s.geom.width * s.geom.height ∧ execComposite s = .refused .pixelBufferSize) := by
  cases hs : s.session with
  | none => simp [execComposite, hs]
  | some ss =>
    by_cases ho : flagOn ss.cm.flags = true
    · by_cases hp : s.pix.length = s.geom.width * s.geom.height <;> simp [execComposite, hs, ho, hp]
    · simp [execComposite, hs, ho]

/-- The step on a state whose next arrival is a command word. -/
theorem step_word {s : State} {w : Word} {rest : List Arrival} (h : s.arrivals = .word w :: rest) :
    step s = match decode s.geom w with
      | .ok i => exec i { s with arrivals := rest, sp := s.sp + 1 }
      | .error _ => .next { s with arrivals := rest, sp := s.sp + 1 } := by
  simp only [step, takeArrival, h]
  cases decode s.geom w <;> rfl

end Sys2Proof.Machine
end

