-- ==== Sys2Proof/Laws/Memory.lean ====
section
/-! SUPPORT. The laws of the element-indexed spaces (R40): what a tabulated array reads as, a read after a write, and that every
operation keeps the shape. -/

namespace Sys2Proof.Machine

variable {α : Type}

theorem Geometry_width_eq (g : Geometry) : g.width = g.cols := rfl

theorem Geometry_height_eq (g : Geometry) : g.height = 8 * g.pages := rfl

theorem Memory.read_tabulate {rows cols r c : Nat} (f : Nat → Nat → α) (hr : r < rows) (hc : c < cols) :
    Memory.read (Memory.tabulate rows cols f) r c = some (f r c) := by
  simp [Memory.read, Memory.tabulate, hr, hc]

theorem Memory.shaped_tabulate (rows cols : Nat) (f : Nat → Nat → α) :
    Memory.Shaped rows cols (Memory.tabulate rows cols f) := by
  constructor
  · simp [Memory.tabulate]
  · intro row h
    obtain ⟨r, -, rfl⟩ := List.mem_map.1 h
    simp

/-- A shaped array has an element at every index in range. -/
theorem Memory.read_isSome {rows cols r c : Nat} {m : List (List α)} (hm : Memory.Shaped rows cols m) (hr : r < rows)
    (hc : c < cols) : ∃ v, Memory.read m r c = some v := by
  have h1 : r < m.length := hm.1 ▸ hr
  have h2 : c < (m[r]).length := by rw [hm.2 _ (List.getElem_mem h1)]; exact hc
  exact ⟨(m[r])[c], by simp [Memory.read, h1, h2]⟩

/-- An element that is there has an index in range. -/
theorem Memory.bounds_of_read {rows cols r c : Nat} {m : List (List α)} {v : α} (hm : Memory.Shaped rows cols m)
    (h : Memory.read m r c = some v) : r < rows ∧ c < cols := by
  obtain ⟨row, h1, h2⟩ := Option.bind_eq_some_iff.1 h
  have hr := (List.getElem?_eq_some_iff.1 h1).1
  have hc := (List.getElem?_eq_some_iff.1 h2).1
  rw [hm.1] at hr
  rw [hm.2 row (List.mem_of_getElem? h1)] at hc
  exact ⟨hr, hc⟩

theorem Memory.read_write_same {rows cols r c : Nat} {m : List (List α)} (v : α) (hm : Memory.Shaped rows cols m)
    (hr : r < rows) (hc : c < cols) : Memory.read (Memory.write m r c v) r c = some v := by
  have h1 : r < m.length := hm.1 ▸ hr
  have h2 : c < (m[r]).length := by rw [hm.2 _ (List.getElem_mem h1)]; exact hc
  simp [Memory.read, Memory.write, h1, h2]

theorem Memory.read_write_other {r c r' c' : Nat} (m : List (List α)) (v : α) (h : r' ≠ r ∨ c' ≠ c) :
    Memory.read (Memory.write m r c v) r' c' = Memory.read m r' c' := by
  simp only [Memory.read, Memory.write, List.getElem?_modify]
  by_cases hr : r = r'
  · subst hr
    have hc : c ≠ c' := fun hcc => h.elim (fun h => h rfl) (fun h => h hcc.symm)
    cases hm : m[r]? <;> simp [hc]
  · simp [hr]

theorem Memory.shaped_write {rows cols : Nat} {m : List (List α)} (r c : Nat) (v : α) (hm : Memory.Shaped rows cols m) :
    Memory.Shaped rows cols (Memory.write m r c v) := by
  refine ⟨by simp [Memory.write, hm.1], fun row h => ?_⟩
  obtain ⟨i, hi, rfl⟩ := List.mem_iff_getElem.1 h
  have hi' : i < m.length := by simpa [Memory.write] using hi
  by_cases hri : r = i
  · subst hri; simp [Memory.write, hm.2 _ (List.getElem_mem hi')]
  · simp [Memory.write, hri, hm.2 _ (List.getElem_mem hi')]

/-- Two arrays of one shape that read alike everywhere are equal: equal memories are equal data. -/
theorem Memory.ext_of_shaped {rows cols : Nat} {m m' : List (List α)} (hm : Memory.Shaped rows cols m)
    (hm' : Memory.Shaped rows cols m')
    (h : ∀ r c, r < rows → c < cols → Memory.read m r c = Memory.read m' r c) : m = m' := by
  refine List.ext_getElem (hm.1.trans hm'.1.symm) fun r h1 h2 => ?_
  have e1 := hm.2 _ (List.getElem_mem h1)
  have e2 := hm'.2 _ (List.getElem_mem h2)
  refine List.ext_getElem (e1.trans e2.symm) fun c g1 g2 => ?_
  have := h r c (hm.1 ▸ h1) (e1 ▸ g1)
  simpa [Memory.read, h1, h2, g1, g2] using this

theorem frameOf_length (w h : Nat) (f : Nat → Nat → Word) : (frameOf w h f).length = w * h := by simp [frameOf]

/-- The word at index `y*w + x` (R53 (d)). -/
theorem frameOf_getElem? {w h y x : Nat} (f : Nat → Nat → Word) (hy : y < h) (hx : x < w) :
    (frameOf w h f)[y * w + x]? = some (f y x) := by
  have hi : y * w + x < w * h := by
    have : (y + 1) * w ≤ h * w := Nat.mul_le_mul_right w hy
    rw [Nat.mul_comm w h]; rw [Nat.add_mul] at this; omega
  have hd : (y * w + x) / w = y := by
    rw [Nat.mul_comm, Nat.mul_add_div (by omega), Nat.div_eq_of_lt hx, Nat.add_zero]
  have hm : (y * w + x) % w = x := by
    rw [Nat.mul_comm, Nat.mul_add_mod, Nat.mod_eq_of_lt hx]
  simp [frameOf, hi, hd, hm]

end Sys2Proof.Machine
end

