-- ==== Sys2Proof/Laws/PerInstr.lean ====
section
/-! SUPPORT. The family TableRow: whatever its operands, the command word of each instruction has the fixed bits of the row of R62
that bears its mnemonic. -/

namespace Sys2Proof.Laws

/-- The command word has the fixed bits of the row that bears the instruction's mnemonic. -/
def TableRow.Statement (i : Instr) : Prop :=
  ∃ r ∈ opcodeTable, r.mnemonic = i.mnemonic ∧ encode i &&& r.mask = r.pattern

/-- The statement from the position of the row and its mask and pattern, field by field. -/
theorem TableRow.of_fields {i : Instr} {op f2 f1 f0 mop m2 m1 m0 : Byte} (r : OpcodeRow) (hr : r ∈ opcodeTable)
    (hn : r.mnemonic = i.mnemonic) (he : encode i = joinFields op f2 f1 f0) (hm : r.mask = joinFields mop m2 m1 m0)
    (hp : joinFields (op &&& mop) (f2 &&& m2) (f1 &&& m1) (f0 &&& m0) = r.pattern) : TableRow.Statement i :=
  ⟨r, hr, hn, by rw [he, hm, joinFields_and, hp]⟩

theorem TableRow.nop : TableRow.Statement .nop := ⟨⟨"NOP", 0x00000000, 0xFFFFFFFF, false⟩, by decide⟩

theorem TableRow.setup (ok : Bool) : TableRow.Statement (.setup ok) :=
  ⟨⟨"SETUP", 0x01000000, 0xFFFFFFFE, false⟩, by cases ok <;> decide⟩

theorem TableRow.teardown : TableRow.Statement .teardown := ⟨⟨"TEARDOWN", 0x02000000, 0xFFFFFFFF, false⟩, by decide⟩

theorem TableRow.setbtn (id : Byte) (pressed : Bool) : TableRow.Statement (.setbtn id pressed) :=
  TableRow.of_fields (mop := 0xFF) (m2 := 0) (m1 := 0xFF) (m0 := 0xFE)
    ⟨"SETBTN", 0x03000000, 0xFF00FFFE, false⟩ (by decide) rfl rfl (by decide) (by
      rw [bitField_and_high, byte_and_zero]; decide)

theorem TableRow.wrnotify : TableRow.Statement .wrnotify := ⟨⟨"WRNOTIFY", 0x04000000, 0xFFFFFFFF, false⟩, by decide⟩

theorem TableRow.composite : TableRow.Statement .composite :=
  ⟨⟨"COMPOSITE", 0x05000000, 0xFFFFFFFF, false⟩, by decide⟩

theorem TableRow.cmData (p c v : Byte) : TableRow.Statement (.cmData p c v) :=
  TableRow.of_fields (mop := 0xFF) (m2 := 0) (m1 := 0) (m0 := 0)
    ⟨"CM.DATA", 0x10000000, 0xFF000000, true⟩ (by decide) rfl rfl (by decide) (by
      simp only [byte_and_zero]; decide)

theorem TableRow.cmCursor (p c : Byte) : TableRow.Statement (.cmCursor p c) :=
  TableRow.of_fields (mop := 0xFF) (m2 := 0) (m1 := 0) (m0 := 0xFF)
    ⟨"CM.CURSOR", 0x11000000, 0xFF0000FF, true⟩ (by decide) rfl rfl (by decide) (by
      simp only [byte_and_zero]; decide)

theorem TableRow.cmFlags (f : BitVec 4) : TableRow.Statement (.cmFlags f) :=
  TableRow.of_fields (mop := 0xFF) (m2 := 0xFF) (m1 := 0xFF) (m0 := 0xF0)
    ⟨"CM.FLAGS", 0x12000000, 0xFFFFFFF0, false⟩ (by decide) rfl rfl (by decide) (by
      rw [nibbleField_and_high]; decide)

theorem TableRow.cmContrast (k : Byte) : TableRow.Statement (.cmContrast k) :=
  TableRow.of_fields (mop := 0xFF) (m2 := 0xFF) (m1 := 0xFF) (m0 := 0)
    ⟨"CM.CONTRAST", 0x13000000, 0xFFFFFF00, false⟩ (by decide) rfl rfl (by decide) (by
      simp only [byte_and_zero]; decide)

theorem TableRow.cmDirty (d : Bool) : TableRow.Statement (.cmDirty d) :=
  ⟨⟨"CM.DIRTY", 0x14000000, 0xFFFFFFFE, false⟩, by cases d <;> decide⟩

end Sys2Proof.Laws
end

