-- ==== Sys2Proof/Tests/Slice0.lean ====
section
/-! SUPPORT. The model's own tests: words written out from R62, the worked examples and vectors of spec/, the ill-formed terms of
WellFormed, and for each statement with hypotheses a state that meets them. Expected values are the spec's. -/

namespace Sys2Proof.Tests

open Sys2Proof.Machine

/-! ### Small states (PAGES = 1, COLS = 2, the geometry of V-F1 and P1) -/

def geom12 : Geometry := { pages := 1, cols := 2 }

def lines : PerButton Line := ⟨⟨0, 0⟩, ⟨0, 1⟩, ⟨0, 2⟩, ⟨1, 0⟩, ⟨1, 1⟩, ⟨1, 2⟩⟩

/-- Not live, a buffer of 16 words. -/
def idle : State := State.resetWith geom12 lines (List.replicate 16 0)

/-- R83's worked example: cursor (0,0), dirty, vram 01 82; display on, contrast 0. -/
def sess : Session :=
  { buttons := allButtons { pressed := false, line := true }
    lum := List.replicate 8 [false, false]
    cm := { vram := [[0x01, 0x82]], cursor := { page := 0, col := 0 }, dirty := true, flags := 0b0001, contrast := 0 } }

def live : State := { idle with session := some sess }

/-- Section 2.3's luminance map: rows 11 10 00 .. 00; contrast 2. -/
def mapped (flags : BitVec 4) : State :=
  { live with session := some { sess with
      lum := [true, true] :: [true, false] :: List.replicate 6 [false, false]
      cm := { sess.cm with flags := flags, contrast := 2 } } }

/-- The next state, if there is one. -/
def nextOf (o : Host.Outcome State Fault Refusal) : Option State :=
  match o with
  | .next t => some t
  | .fault _ => none
  | .refused _ => none

/-- A view of the session after an instruction. -/
def sessionAfter {α : Type} (i : Instr) (s : State) (view : Session → α) : Option α :=
  (nextOf (exec i s)).bind fun t => t.session.map view

/-! ### WellFormed: an ill-formed term for each check (R64 (c)) -/

theorem test_wf_page_of_data : Instr.wf { pages := 8, cols := 128 } (.cmData 8 0 0) = false := by decide
theorem test_wf_column_of_data : Instr.wf { pages := 8, cols := 128 } (.cmData 0 128 0) = false := by decide
theorem test_wf_page_of_cursor : Instr.wf { pages := 8, cols := 128 } (.cmCursor 8 0) = false := by decide
theorem test_wf_column_of_cursor : Instr.wf { pages := 8, cols := 128 } (.cmCursor 0 128) = false := by decide
theorem test_wf_last_element : Instr.wf { pages := 8, cols := 128 } (.cmData 7 127 0x80) = true := by decide

/-! ### Decode: each row's word, bit by bit from its encoding in R62 -/

theorem test_decode_nop : decodeTableWord 32 0b00000000_00000000_00000000_00000000 = some .nop := by decide
theorem test_decode_setup : decodeTableWord 32 0b00000001_00000000_00000000_00000001 = some (.setup true) := by decide
theorem test_decode_teardown : decodeTableWord 32 0b00000010_00000000_00000000_00000000 = some .teardown := by decide
theorem test_decode_setbtn : decodeTableWord 32 0b00000011_00000101_00000000_00000001 = some (.setbtn 5 true) := by decide
theorem test_decode_wrnotify : decodeTableWord 32 0b00000100_00000000_00000000_00000000 = some .wrnotify := by decide
theorem test_decode_composite : decodeTableWord 32 0b00000101_00000000_00000000_00000000 = some .composite := by decide
theorem test_decode_cmData : decodeTableWord 32 0b00010000_00000111_01111111_10000000 = some (.cmData 7 127 0x80) := by
  decide
theorem test_decode_cmCursor : decodeTableWord 32 0b00010001_00000011_00010001_00000000 = some (.cmCursor 3 17) := by decide
theorem test_decode_cmFlags : decodeTableWord 32 0b00010010_00000000_00000000_00001001 = some (.cmFlags 0b1001) := by decide
theorem test_decode_cmContrast : decodeTableWord 32 0b00010011_00000000_00000000_11001111 = some (.cmContrast 0xCF) := by
  decide
theorem test_decode_cmDirty : decodeTableWord 32 0b00010100_00000000_00000000_00000001 = some (.cmDirty true) := by decide

/-- V-X9 to V-X17: reserved words, each by its reason. -/
theorem test_decode_reserved :
    [0x00000001, 0x03040101, 0x03040002, 0x0F000000, 0x15000000, 0xFF000000, 0x12000010, 0x11000001, 0x04000001].map
      (decode { pages := 8, cols := 128 }) =
    [.error .operandNotZero, .error .operandNotZero, .error .operandNotZero, .error .undefinedOp, .error .undefinedOp,
      .error .undefinedOp, .error .operandNotZero, .error .operandNotZero, .error .operandNotZero] := by decide

/-- V-X15: legal when PAGES >= 9. -/
theorem test_decode_page_eight : decode { pages := 9, cols := 128 } 0x10080000 = .ok (.cmData 8 0 0) := by decide

/-! ### Assembler (R67, R68) -/

theorem test_assemble_comment : assembleWords "CM.DATA 7, 127, 0x80 ; V-E1".toList = some [0x10077F80] := by decide
theorem test_assemble_press : assembleWords "PRESS B".toList = some [0x03050001] := by decide

/-! ### Meanings -/

/-- V-S1: pressed 000000, line 111111, SetupResult(success), no raise call. -/
theorem test_setup_succeeds :
    (nextOf (exec (.setup true) idle)).map (fun t => (t.events, t.session.map (fun ss => ss.buttons.toList))) =
      some ([.setupResult .success], some (List.replicate 6 { pressed := false, line := true })) := by decide

/-- V-S3: SETUP while live fails and changes nothing else. -/
theorem test_setup_while_live :
    nextOf (exec (.setup true) live) = some { live with events := [.setupResult .failure] } := by decide

/-- V-S5. -/
theorem test_teardown : nextOf (exec .teardown live) = some idle := by decide

/-- V-S7. -/
theorem test_nop : nextOf (exec .nop live) = some live := by decide

/-- V-B1: A pressed: RaiseLine(WIRING[4], 0), pressed 1, line 0. -/
theorem test_setbtn_press :
    (nextOf (exec (.setbtn 4 true) live)).map (fun t => (t.events, t.session.map (fun ss => ss.buttons.aButton))) =
      some ([.raiseLine ⟨1, 1⟩ false], some { pressed := true, line := false }) := by decide

/-- V-B7: id 6 is a legal no-op. -/
theorem test_setbtn_invalid_id : nextOf (exec (.setbtn 6 true) live) = some live := by decide

/-- R83's worked example: lum[0][0], lum[1][1], lum[7][1] lit, dirty 0. -/
theorem test_wrnotify_decodes :
    sessionAfter .wrnotify live (fun ss => (ss.lum, ss.cm.dirty)) =
      some ([[true, false], [false, true], [false, false], [false, false], [false, false], [false, false], [false, false],
        [false, true]], false) := by decide

/-- V-D9: cursor (0,1): nothing, dirty stays 1. -/
theorem test_wrnotify_off_origin :
    (nextOf (exec (.cmCursor 0 1) live)).bind (fun t => nextOf (exec .wrnotify t)) = nextOf (exec (.cmCursor 0 1) live) := by
  decide

/-- V-F1: GRAY at indices 0, 1, 2. -/
theorem test_composite_plain :
    (nextOf (exec .composite (mapped 0b0001))).map State.pix =
      some (List.replicate 3 0x808080FF ++ List.replicate 13 0x000000FF) := by decide

/-- V-F11: vertical mirror, inverted: GRAY at 0..11 and 13; 12, 14, 15 BLACK. -/
theorem test_composite_mirrored_inverted :
    (nextOf (exec .composite (mapped 0b1011))).map State.pix =
      some (List.replicate 12 0x808080FF ++ [0x000000FF, 0x808080FF, 0x000000FF, 0x000000FF]) := by decide

/-- R126's worked example: vram[0][1] = 0x82. -/
theorem test_cmData : sessionAfter (.cmData 0 1 0x82) (mapped 1) (fun ss => (ss.cm.vram, ss.cm.dirty)) =
    some ([[0x01, 0x82]], true) := by decide

/-- V-E6: nothing while not live. -/
theorem test_cmData_not_live : nextOf (exec (.cmData 0 1 0x82) idle) = some idle := by decide

theorem test_cmCursor : sessionAfter (.cmCursor 0 1) live (fun ss => ss.cm.cursor) = some { page := 0, col := 1 } := by decide

/-- V-E3: ON|COMREV. -/
theorem test_cmFlags : sessionAfter (.cmFlags 0b1001) live
    (fun ss => (flagOn ss.cm.flags, flagInv ss.cm.flags, flagRemap ss.cm.flags, flagComrev ss.cm.flags)) =
      some (true, false, false, true) := by decide

/-- R129's worked example: contrast 207, V = 230. -/
theorem test_cmContrast : sessionAfter (.cmContrast 0xCF) live (fun ss => (ss.cm.contrast.toNat, grayLevel ss.cm.contrast)) =
    some (207, 230) := by decide

/-- V-E5. -/
theorem test_cmDirty : sessionAfter (.cmDirty false) live (fun ss => ss.cm.dirty) = some false := by decide

/-- The step takes the word, runs it and advances the stream index (P3, word 0). -/
theorem test_step_setup : (nextOf (step (idle.withFetchWord 32 0x01000001))).map (fun t => (t.sp, t.live, t.arrivals)) =
    some (1, true, []) := by decide

/-- R64: a reserved word is passed over. -/
theorem test_step_reserved : nextOf (step (live.withFetchWord 32 0x06000000)) = some { live with sp := 1 } := by decide

/-- Nothing arrived: the machine waits. -/
theorem test_step_empty_port : nextOf (step live) = some live := by decide

/-- A SETUP from not live is a safe step, one from live is not (K7). -/
theorem test_safeStep_setup :
    (safeStep (idle.withFetchWord 32 0x01000001), safeStep (live.withFetchWord 32 0x01000001)) = (true, false) := by decide

/-! ### Witnesses: for each statement with hypotheses, a state and operands that meet them -/

theorem witness_DecodeOfEncodeIsTheInstruction : Instr.wf geom12 (.cmData 0 1 0xFF) = true := by decide

theorem witness_EncodeOfDecodeIsTheWord : decode geom12 0x100001FF = .ok (.cmData 0 1 0xFF) := by decide

theorem witness_DecoderAcceptsExactlyTheOpcodeMap : decode geom12 0x03FF0001 = .ok (.setbtn 255 true) := by decide

theorem witness_NoWordMatchesTwoRows : ∃ r ∈ opcodeTable, ∃ r' ∈ opcodeTable,
    (0x12000005 : Word) &&& r.mask = r.pattern ∧ (0x12000005 : Word) &&& r'.mask = r'.pattern := by decide

theorem witness_StepRunsTheDecodedInstruction :
    (live.withFetchWord 32 0x05000000).arrivals = [.word 0x05000000] ∧ decode live.geom 0x05000000 = .ok .composite := by
  decide

theorem witness_ReservedWordIsNoOperation :
    (live.withFetchWord 32 0x11010000).arrivals = [.word 0x11010000] ∧
      ∀ r ∈ opcodeTable, r.accepts live.geom 0x11010000 = false := by decide

theorem witness_OutOfRangeActionIsNoOperation : Instr.wf live.geom (.cmCursor 0 2) = false := by decide

theorem witness_HostStoreChangesOnlyItsPixel :
    ({ live with arrivals := [.hostPixel 15 7] } : State).arrivals = [.hostPixel 15 7] ∧ 15 < live.pix.length ∧
      14 ≠ 15 := by decide

theorem witness_WordsArePerformedInOrder :
    (live.withFetchWord 32 0).arrivals = [.word 0] ∧ ∃ t, step (live.withFetchWord 32 0) = .next t :=
  ⟨by decide, _, rfl⟩

theorem witness_ParametersNeverChange : ∃ t, step (live.withFetchWord 32 0x01000001) = .next t := ⟨_, rfl⟩

theorem witness_live_WF : live.WF := by decide

theorem witness_mapped_WF : (mapped 0b1111).WF := by decide

theorem witness_StepKeepsTheMachineWellFormed :
    (live.withFetchWord 32 0x10000182).WF ∧ ∃ t, step (live.withFetchWord 32 0x10000182) = .next t :=
  ⟨by decide, _, rfl⟩

/-- Both halves of the promise, for all six buttons, in a live session with one press on record. -/
theorem witness_StepKeepsTheBridgePromise :
    (∃ t, exec (.setbtn 4 true) live = .next t ∧ (t.withFetchWord 32 0x03040000).BridgeInv) ∧
      ∃ u, step (live.withFetchWord 32 0x03040000) = .next u := by
  refine ⟨⟨_, rfl, by decide, ?_⟩, _, rfl⟩
  rintro _ ⟨⟩ n
  cases n <;> decide

theorem witness_WellFormedRunsNeverStop : State.WF (live.withFetchWord 32 0x05000000) := by decide

/-- The last word of the reset buffer, 128 * 64 - 1 (R5's defaults). -/
theorem witness_ResetIsTheStateTeardownLeaves : 8191 < State.reset.geom.width * State.reset.geom.height := by decide

theorem witness_EveryOperationIsTotal :
    Instr.nop ≠ .composite ∧ live.pix.length = live.geom.width * live.geom.height := by decide

theorem witness_SetupFollowsItsRule :
    live.live = true ∧ idle.live = false ∧ (live.live = true ∨ false = false) ∧ live.geom.WF := by decide

theorem witness_EachSetupDrawsAfresh : idle.session = none ∧ 7 < idle.geom.height ∧ 1 < idle.geom.width ∧
    0 < idle.geom.pages ∧ 1 < idle.geom.cols := by decide

theorem witness_NothingElseCrossesSessions : ∃ t u t' u', idle = { live with session := idle.session } ∧
    exec .teardown live = .next t ∧ exec (.setup true) t = .next u ∧
    exec .teardown idle = .next t' ∧ exec (.setup true) t' = .next u' := ⟨_, _, _, _, rfl, rfl, rfl, rfl, rfl⟩

theorem witness_WhileNotLiveOnlySetupActs : idle.session = none ∧ Instr.setup false ≠ .setup true ∧
    Instr.composite ≠ .setup true := by decide

theorem witness_SessionsBeginBySetupAndEndByTeardown :
    (∃ t, exec (.setup true) idle = .next t ∧ idle.live = false ∧ t.live = true) ∧
      ∃ t, exec .teardown live = .next t ∧ live.live = true ∧ t.live = false := ⟨⟨_, rfl, by decide⟩, _, rfl, by decide⟩

theorem witness_ButtonIdsAreNumbered : 5 < (6 : Byte).toNat ∧ 5 < (255 : Byte).toNat := by decide

theorem witness_SetbtnFollowsItsRule :
    idle.session = none ∧ 5 < (6 : Byte).toNat ∧ live.session = some sess ∧ buttonOfId 5 = some .bButton ∧
      false = (entry sess.buttons .bButton).pressed ∧ true ≠ (entry sess.buttons .bButton).pressed ∧
      ButtonId.aButton ≠ .bButton := by decide

theorem witness_RepeatedReportChangesNothing : ∃ t, exec (.setbtn 0 true) live = .next t := ⟨_, rfl⟩

theorem witness_PressAndReleaseRaiseTwice : live.session = some sess ∧ buttonOfId 0 = some .up ∧
    entry sess.buttons .up = { pressed := false, line := true } := by decide

theorem witness_ReportsOfDistinctIdsCommute : ∃ t u t' u', (0 : Byte) ≠ 5 ∧
    exec (.setbtn 0 true) live = .next t ∧ exec (.setbtn 5 true) t = .next u ∧
    exec (.setbtn 5 true) live = .next t' ∧ exec (.setbtn 0 true) t' = .next u' :=
  ⟨_, _, _, _, by decide, rfl, rfl, rfl, rfl⟩

theorem witness_DecodeUnpacksEveryByte : Memory.Shaped geom12.pages geom12.cols sess.cm.vram ∧
    Memory.read sess.cm.vram 0 1 = some 0x82 ∧ 7 < 8 := by decide

theorem witness_DecodeIsABijection : Memory.Shaped geom12.pages geom12.cols sess.cm.vram ∧
    decodeVram geom12 sess.cm.vram = decodeVram geom12 sess.cm.vram ∧
    Memory.Shaped geom12.height geom12.width sess.lum := by decide

theorem witness_WrnotifyFollowsItsRule : idle.session = none ∧ live.session = some sess := by decide

theorem witness_DecodingAgainGivesTheSameMap : live.session = some sess ∧ sess.cm.cursor = { page := 0, col := 0 } ∧
    sess.cm.dirty = true := by decide

/-- The two states differ in flags, contrast and old map. -/
theorem witness_DecodeReadsOnlyTheController : ∃ ss' t t' tt tt',
    live.geom = (mapped 0b1110).geom ∧ live.session = some sess ∧ (mapped 0b1110).session = some ss' ∧
      sess.cm.vram = ss'.cm.vram ∧ decodeDue sess.cm = true ∧ decodeDue ss'.cm = true ∧
      exec .wrnotify live = .next t ∧ exec .wrnotify (mapped 0b1110) = .next t' ∧ t.session = some tt ∧
      t'.session = some tt' :=
  ⟨_, _, _, _, _, rfl, rfl, rfl, rfl, rfl, rfl, rfl, rfl, rfl, rfl⟩

theorem witness_FlushAlwaysDecodes : live.geom.WF ∧ live.session = some sess := by decide

theorem witness_DisplayOffLeavesThePixels : ∃ ss, (mapped 0b1110).session = some ss ∧ ss.cm.flags.getLsbD 0 = false :=
  ⟨_, rfl, by decide⟩

theorem witness_CompositeFollowsItsRule : idle.session = none ∧
    (∃ ss, (mapped 0b1110).session = some ss ∧ ss.cm.flags.getLsbD 0 = false) ∧
    ∃ ss, (mapped 0b1111).session = some ss ∧ ss.cm.flags.getLsbD 0 = true ∧
      (mapped 0b1111).pix.length = (mapped 0b1111).geom.width * (mapped 0b1111).geom.height ∧
      7 < (mapped 0b1111).geom.height ∧ 1 < (mapped 0b1111).geom.width :=
  ⟨rfl, ⟨_, rfl, by decide⟩, _, rfl, by decide⟩

theorem witness_WrongSizedBufferIsRefused : ({ live with pix := [] } : State).session = some sess ∧
    sess.cm.flags.getLsbD 0 = true ∧
    ({ live with pix := [] } : State).pix.length ≠ live.geom.width * live.geom.height := by decide

theorem witness_CompositeIsIdempotent : ∃ t, exec .composite live = .next t := ⟨_, rfl⟩

theorem witness_EveryPixelIsGrayOrBlack : live.session = some sess ∧ sess.cm.flags.getLsbD 0 = true ∧
    ∃ t, exec .composite live = .next t ∧ t.pix ≠ [] := ⟨rfl, by decide, _, rfl, by decide⟩

theorem witness_ForegroundPixelsAreTheLitBits : ∃ ss t, (mapped 0b1111).WF ∧ (mapped 0b1111).session = some ss ∧
    ss.cm.flags.getLsbD 0 = true ∧ exec .composite (mapped 0b1111) = .next t :=
  ⟨_, _, by decide, rfl, by decide, rfl⟩

theorem witness_InvertedHalfTurnSwapsThePlainFrame : live.WF ∧ live.session = some sess ∧ 7 < live.geom.height ∧
    1 < live.geom.width := by decide

theorem witness_DecodeThenCompositeShowsTheMemory : live.WF ∧ live.session = some sess ∧ decodeDue sess.cm = true ∧
    sess.cm.flags = 0b0001 ∧ sess.cm.contrast = 0 ∧ Memory.read sess.cm.vram 0 1 = some 0x82 ∧ 7 < 8 := by decide

/-- The two states differ in the buffer, the cursor and the dirty flag. -/
theorem witness_CompositeReadsOnlyMapFlagsContrast : ∃ s' ss' t t',
    s' = { live with
      pix := List.replicate 16 5
      session := some { sess with cm := { sess.cm with cursor := { page := 0, col := 1 }, dirty := false } } } ∧
    live.geom = s'.geom ∧ live.session = some sess ∧ s'.session = some ss' ∧ sess.lum = ss'.lum ∧
    sess.cm.flags = ss'.cm.flags ∧ sess.cm.contrast = ss'.cm.contrast ∧ sess.cm.flags.getLsbD 0 = true ∧
    exec .composite live = .next t ∧ exec .composite s' = .next t' :=
  ⟨_, _, _, _, rfl, rfl, rfl, rfl, rfl, rfl, rfl, by decide, rfl, rfl⟩

theorem witness_CmDataWritesOneByte : (0 : Byte).toNat < live.geom.pages ∧ (1 : Byte).toNat < live.geom.cols ∧
    idle.session = none ∧ live.session = some sess ∧ Memory.Shaped live.geom.pages live.geom.cols sess.cm.vram ∧
    ((0 : Nat) ≠ (0 : Byte).toNat ∨ (0 : Nat) ≠ (1 : Byte).toNat) := by decide

theorem witness_CmCursorSetsTheCursor : (0 : Byte).toNat < live.geom.pages ∧ (1 : Byte).toNat < live.geom.cols ∧
    idle.session = none ∧ live.session = some sess := by decide

theorem witness_CmFlagsSetsTheFlags : idle.session = none ∧ live.session = some sess := by decide

theorem witness_CmContrastSetsTheContrast : idle.session = none ∧ live.session = some sess := by decide

theorem witness_CmDirtySetsTheDirtyFlag : idle.session = none ∧ live.session = some sess := by decide

theorem witness_EngineActionsTouchOnlyTheController : (Instr.cmData 0 1 7).performer = .engine ∧ sess ∈ live.session ∧
    ∃ t tt, exec (.cmData 0 1 7) live = .next t ∧ tt ∈ t.session := ⟨rfl, rfl, _, _, rfl, rfl⟩

theorem witness_BlockOnlyClearsDirty : Instr.wrnotify.performer = .block ∧ sess ∈ live.session ∧
    ∃ t tt, exec .wrnotify live = .next t ∧ tt ∈ t.session := ⟨rfl, rfl, _, _, rfl, rfl⟩

theorem witness_EachOutputHasOneWriter :
    (∃ t, exec .composite live = .next t ∧ t.pix ≠ live.pix) ∧
      (∃ t tt, exec .wrnotify live = .next t ∧ tt ∈ t.session ∧ tt.lum ≠ sess.lum) ∧
      ∃ t tt, exec (.setbtn 0 true) live = .next t ∧ tt ∈ t.session ∧ tt.buttons ≠ sess.buttons :=
  ⟨⟨_, rfl, by decide⟩, ⟨_, _, rfl, rfl, by decide⟩, _, _, rfl, rfl, by decide⟩

theorem witness_EventsAreOnlyAppended : ∃ t, exec (.setbtn 0 true) live = .next t ∧
    Event.raiseLine ⟨0, 0⟩ false ∈ t.events := ⟨_, rfl, by decide⟩

theorem witness_ButtonsAndDisplayCommute : ∃ t u t' u', (Instr.composite = .composite) ∧
    exec .composite live = .next t ∧ exec (.setbtn 0 true) t = .next u ∧
    exec (.setbtn 0 true) live = .next t' ∧ exec .composite t' = .next u' := ⟨_, _, _, _, rfl, rfl, rfl, rfl, rfl⟩

end Sys2Proof.Tests
end

section
/-! PROOFS. The Display Decoder (40_display_decoder.md): what the unpack function puts where (R81), and the two cases of WRNOTIFY
(R83). -/

namespace Sys2Proof.Proofs

open Sys2Proof.Machine

/-! ### The unpack function (R81) -/

theorem shaped_decodeVram (g : Geometry) (vram : List (List Byte)) :
    Memory.Shaped g.height g.width (decodeVram g vram) :=
  Memory.shaped_tabulate _ _ _

/-- An element of the map, by its own row and column. -/
theorem read_decodeVram {g : Geometry} {r c : Nat} (vram : List (List Byte)) (hr : r < g.height) (hc : c < g.width) :
    Memory.read (decodeVram g vram) r c = some ((readByte vram (r / 8) c).getLsbD (r % 8)) :=
  Memory.read_tabulate _ hr hc

theorem readByte_of_read {vram : List (List Byte)} {p c : Nat} {v : Byte} (h : Memory.read vram p c = some v) :
    readByte vram p c = v := by
  simp [readByte, h]

/-- An element of the map, by the page, column and bit it comes from: row `8p+y` lies in page `p`, at its bit `y`. -/
theorem read_decodeVram_of_read {g : Geometry} {vram : List (List Byte)} {p c y : Nat} {v : Byte}
    (hm : Memory.Shaped g.pages g.cols vram) (hv : Memory.read vram p c = some v) (hy : y < 8) :
    Memory.read (decodeVram g vram) (8 * p + y) c = some (v.getLsbD y) := by
  obtain ⟨hp, hc⟩ := Memory.bounds_of_read hm hv
  have hr : 8 * p + y < g.height := by rw [Geometry_height_eq]; omega
  have hpage : (8 * p + y) / 8 = p := by omega
  have hbit : (8 * p + y) % 8 = y := by omega
  rw [read_decodeVram vram hr hc, hpage, hbit, readByte_of_read hv]

/-- Settles O33: the shape of the map, and each of its elements by the byte it comes from. -/
theorem decodeUnpacksEveryByte : Obligations.DecodeUnpacksEveryByte :=
  fun g vram hm => ⟨shaped_decodeVram g vram, fun _ _ _ _ hv hy => read_decodeVram_of_read hm hv hy⟩

/-! ### WRNOTIFY (R83) -/

theorem decodeDue_iff (cm : ControllerModel) :
    decodeDue cm = true ↔ cm.cursor.page = 0 ∧ cm.cursor.col = 0 ∧ cm.dirty = true := by
  simp [decodeDue, and_assoc]

theorem exec_wrnotify (s : State) :
    exec .wrnotify s = .next (s.onSession fun ss => if decodeDue ss.cm then ss.decoded s.geom else ss) := rfl

theorem exec_wrnotify_of_not_live {s : State} (hs : s.session = none) : exec .wrnotify s = .next s := by
  rw [exec_wrnotify, onSession_of_not_live _ hs]

/-- Live and due, the map is decoded and `dirty` cleared. -/
theorem exec_wrnotify_of_due {s : State} {ss : Session} (hs : s.session = some ss) (hd : decodeDue ss.cm = true) :
    exec .wrnotify s = .next { s with session := some (ss.decoded s.geom) } := by
  rw [exec_wrnotify, onSession_of_session _ hs, if_pos hd]

/-- Live and not due, nothing changes. -/
theorem exec_wrnotify_of_not_due {s : State} {ss : Session} (hs : s.session = some ss) (hd : ¬ decodeDue ss.cm = true) :
    exec .wrnotify s = .next s := by
  rw [exec_wrnotify, onSession_of_session _ hs, if_neg hd, ← hs]

/-- Settles O35: not live, or live and split on the guard of R83. -/
theorem wrnotifyFollowsItsRule : Obligations.WrnotifyFollowsItsRule := by
  refine fun s => ⟨exec_wrnotify_of_not_live, fun ss hs => ?_⟩
  by_cases hd : decodeDue ss.cm = true
  · rw [exec_wrnotify_of_due hs hd, if_pos ((decodeDue_iff ss.cm).1 hd)]
    rfl
  · rw [exec_wrnotify_of_not_due hs hd, if_neg (mt (decodeDue_iff ss.cm).2 hd)]

end Sys2Proof.Proofs
end

section
/-! PROOFS. The Display Compositor (41_display_compositor.md): the gray level and the colours (R92, R93), the pixel at a row and
column (R96), and the cases of COMPOSITE (R91, R97). -/

namespace Sys2Proof.Proofs

open Sys2Proof.Machine

/-! ### The gray level (R92) -/

/-- The second form of R92: 255/512 falls short of 1/2 by too little to show below contrast 256. -/
theorem grayFloor_eq {n : Nat} (hn : n < 256) : 255 * (n + 256) / 512 = 127 + n / 2 := by omega

theorem grayLevel_eq (k : Byte) : grayLevel k = BitVec.ofNat 8 (127 + k.toNat / 2) := by
  rw [grayLevel, grayFloor_eq k.isLt]

/-- The gray level is at most 254, so it fits in the eight bits of its channel. -/
theorem grayLevel_toNat (k : Byte) : (grayLevel k).toNat = 127 + k.toNat / 2 := by
  have hk : k.toNat < 256 := k.isLt
  rw [grayLevel_eq, BitVec.toNat_ofNat, Nat.mod_eq_of_lt (by omega)]

/-- Settles O39: both forms of the floor agree, and its bounds are those of half the contrast. -/
theorem grayLevelOfContrast : Obligations.GrayLevelOfContrast := by
  intro k
  have hk : k.toNat < 256 := k.isLt
  rw [grayLevel_toNat, grayFloor_eq hk]
  exact ⟨rfl, rfl, by omega, by omega⟩

/-! ### The colours (R93) -/

theorem blackWord_eq : blackWord = 0x000000FF#32 := by decide

theorem grayWord_eq (k : Byte) : grayWord k = grayLevel k ++ grayLevel k ++ grayLevel k ++ 0xFF#8 := rfl

theorem foreground_eq (f : BitVec 4) (k : Byte) :
    foreground f k = if f.getLsbD 1 then 0x000000FF#32 else grayLevel k ++ grayLevel k ++ grayLevel k ++ 0xFF#8 := by
  rw [← blackWord_eq, ← grayWord_eq]; rfl

theorem background_eq (f : BitVec 4) (k : Byte) :
    background f k = if f.getLsbD 1 then grayLevel k ++ grayLevel k ++ grayLevel k ++ 0xFF#8 else 0x000000FF#32 := by
  rw [← blackWord_eq, ← grayWord_eq]; rfl

/-- Settles O40: the two colours, each by its equation. -/
theorem inversionSwapsTheColours : Obligations.InversionSwapsTheColours :=
  fun f k => ⟨foreground_eq f k, background_eq f k⟩

/-! ### COMPOSITE (R91, R97) -/

theorem exec_composite (s : State) : exec .composite s = execComposite s := rfl

theorem exec_composite_of_not_live {s : State} (hs : s.session = none) : exec .composite s = .next s := by
  simp [exec_composite, execComposite, hs]

/-- The display-on gate of R91: it comes before the buffer's size, which does not matter here. -/
theorem exec_composite_of_off {s : State} {ss : Session} (hs : s.session = some ss) (ho : flagOn ss.cm.flags = false) :
    exec .composite s = .next s := by
  simp [exec_composite, execComposite, hs, ho]

/-- Live with the display on, the whole frame is written and nothing else. -/
theorem exec_composite_of_on {s : State} {ss : Session} (hs : s.session = some ss) (ho : flagOn ss.cm.flags = true)
    (hp : s.pix.length = s.geom.width * s.geom.height) :
    exec .composite s = .next { s with pix := compositeFrame s.geom ss.cm.flags ss.cm.contrast ss.lum } := by
  simp [exec_composite, execComposite, hs, ho, hp]

/-- Settles O41: the off case of COMPOSITE. -/
theorem displayOffLeavesThePixels : Obligations.DisplayOffLeavesThePixels :=
  fun _ _ hs ho => exec_composite_of_off hs ho

theorem compositeFrame_length (g : Geometry) (f : BitVec 4) (k : Byte) (lum : List (List Bool)) :
    (compositeFrame g f k lum).length = g.width * g.height :=
  frameOf_length _ _ _

/-- The word of the frame at row `y`, column `x` (R96). -/
theorem compositeFrame_getElem? {g : Geometry} {y x : Nat} (f : BitVec 4) (k : Byte) (lum : List (List Bool))
    (hy : y < g.height) (hx : x < g.width) :
    (compositeFrame g f k lum)[y * g.width + x]? =
      some (if readBit lum (sourceRow g f y) (sourceColumn g f x) then foreground f k else background f k) :=
  frameOf_getElem? _ hy hx

/-- Settles O42: not live, display off, or display on; in the last case each word is the frame's pixel, its gray level in the second
form of R92. -/
theorem compositeFollowsItsRule : Obligations.CompositeFollowsItsRule := by
  refine fun s => ⟨exec_composite_of_not_live, fun ss hs => ⟨exec_composite_of_off hs, fun ho hp => ?_⟩⟩
  refine ⟨_, exec_composite_of_on hs ho hp, rfl, compositeFrame_length .., fun y x hy hx => ?_⟩
  rw [← grayLevel_eq]
  intro V gray black fg bg sx sy
  rw [compositeFrame_getElem? _ _ _ hy hx, foreground_eq, background_eq]
  rfl

end Sys2Proof.Proofs
end

section
/-! PROOFS. The Button Bridge (42_button_bridge.md): the numbers of the six buttons (R108), and the cases of SETBTN (R106). -/

namespace Sys2Proof.Proofs

open Sys2Proof.Machine

/-! ### Button ids (R108) -/

theorem buttonOfId_buttonCode (b : ButtonId) : buttonOfId (buttonCode b) = some b := by cases b <;> rfl

/-- An id above 5 is out of the valid set. -/
theorem buttonOfId_eq_none {id : Byte} (h : 5 < id.toNat) : buttonOfId id = none := by
  unfold buttonOfId
  split
  case h_7 => rfl
  all_goals omega

/-- Settles O28: each button answers to its own number, and no number is left above 5. -/
theorem buttonIdsAreNumbered : Obligations.ButtonIdsAreNumbered :=
  ⟨buttonOfId_buttonCode .up, buttonOfId_buttonCode .down, buttonOfId_buttonCode .left, buttonOfId_buttonCode .right,
    buttonOfId_buttonCode .aButton, buttonOfId_buttonCode .bButton, fun _ => buttonOfId_eq_none⟩

/-! ### SETBTN (R106) -/

theorem exec_setbtn (id : Byte) (pressed : Bool) (s : State) : exec (.setbtn id pressed) s = execSetbtn id pressed s := rfl

/-- SETBTN changes nothing where no live session stores another state for the button the id names. -/
theorem exec_setbtn_of_no_change {id : Byte} {pressed : Bool} {s : State}
    (h : ∀ ss ∈ s.session, ∀ b ∈ buttonOfId id, pressed = (entry ss.buttons b).pressed) :
    exec (.setbtn id pressed) s = .next s := by
  obtain ⟨-, he⟩ | ⟨ss, b, hs, hb, hp, -⟩ := execSetbtn_cases id pressed s
  · exact he
  · exact absurd (h ss hs b hb) hp

/-- On a transition SETBTN is the report of the button: one raise call and one entry replaced. -/
theorem exec_setbtn_of_change {id : Byte} {pressed : Bool} {s : State} {ss : Session} {b : ButtonId}
    (hs : s.session = some ss) (hb : buttonOfId id = some b) (hp : pressed ≠ (entry ss.buttons b).pressed) :
    exec (.setbtn id pressed) s = .next { s with
      session := some { ss with buttons := setEntry ss.buttons b { pressed := pressed, line := levelOf pressed } }
      events := s.events ++ [.raiseLine (entry s.wiring b) (levelOf pressed)] } := by
  rw [exec_setbtn, ← reportButton_of_session b pressed hs]
  simp [execSetbtn, hs, hb, hp]

theorem exec_setbtn_of_not_live {s : State} (id : Byte) (pressed : Bool) (hs : s.session = none) :
    exec (.setbtn id pressed) s = .next s :=
  exec_setbtn_of_no_change (by simp [hs])

theorem exec_setbtn_of_invalid_id {id : Byte} (pressed : Bool) (s : State) (h : 5 < id.toNat) :
    exec (.setbtn id pressed) s = .next s :=
  exec_setbtn_of_no_change (by simp [buttonOfId_eq_none h])

/-- A report of the stored state is silent. -/
theorem exec_setbtn_of_same {id : Byte} {pressed : Bool} {s : State} {ss : Session} {b : ButtonId}
    (hs : s.session = some ss) (hb : buttonOfId id = some b) (hp : pressed = (entry ss.buttons b).pressed) :
    exec (.setbtn id pressed) s = .next s :=
  exec_setbtn_of_no_change (by simpa [hs, hb] using hp)

/-- Settles O29: the three no-op cases, and the transition with the table that has the button's entry replaced. -/
theorem setbtnFollowsItsRule : Obligations.SetbtnFollowsItsRule := by
  refine fun id pressed s => ⟨exec_setbtn_of_not_live id pressed, exec_setbtn_of_invalid_id pressed s, fun ss b hs hb =>
    ⟨exec_setbtn_of_same hs hb, fun hp => ?_⟩⟩
  exact ⟨_, _, exec_setbtn_of_change hs hb hp, rfl, entry_setEntry_same .., fun _ => entry_setEntry_other _ _⟩

end Sys2Proof.Proofs
end

section
/-! PROOFS. The session operations (43_session_ops.md): NOP (R115), the two cases of SETUP with the legality of the session it
begins (R116), and TEARDOWN (R117). -/

namespace Sys2Proof.Proofs

open Sys2Proof.Machine

/-! ### NOP (R115) -/

theorem exec_nop (s : State) : exec .nop s = .next s := rfl

/-- Settles O20: NOP by its equation. -/
theorem nopChangesNothing : Obligations.NopChangesNothing := exec_nop

/-! ### The session a SETUP begins (R116) -/

theorem entry_newSession (g : Geometry) (n : Nat) (b : ButtonId) :
    entry (newSession g n).buttons b = { pressed := false, line := true } :=
  entry_allButtons _ b

theorem shaped_newSession_lum (g : Geometry) (n : Nat) : Memory.Shaped g.height g.width (newSession g n).lum :=
  Memory.shaped_tabulate _ _ _

/-- A drawn cursor is in range because PAGES and COLS are not 0. -/
theorem drawController_wf {g : Geometry} (hg : g.WF) (n : Nat) : (drawController g n).WF g := by
  obtain ⟨⟨hpages, -⟩, ⟨hcols, -⟩⟩ := hg
  exact ⟨Memory.shaped_tabulate _ _ _, Nat.mod_lt _ hpages, Nat.mod_lt _ hcols⟩

/-! ### SETUP (R116) -/

theorem exec_setup (ok : Bool) (s : State) : exec (.setup ok) s = execSetup ok s := rfl

/-- The two failure cases: live, or the out-of-scope part of setup failed. -/
theorem exec_setup_of_failure {ok : Bool} {s : State} (h : s.live = true ∨ ok = false) :
    exec (.setup ok) s = .next { s with events := s.events ++ [.setupResult .failure] } := by
  obtain ⟨-, he⟩ | ⟨hs, rfl, -⟩ := execSetup_cases ok s
  · exact he
  · simp [hs] at h

/-- Not live and with `ok = 1`, SETUP begins the session of the next draw. -/
theorem exec_setup_of_success {s : State} (hs : s.session = none) :
    exec (.setup true) s = .next { s with
      session := some (newSession s.geom s.draws)
      draws := s.draws + 1
      events := s.events ++ [.setupResult .success] } := by
  obtain ⟨h, -⟩ | ⟨-, -, he⟩ := execSetup_cases true s
  · simp [hs] at h
  · exact he

/-- Settles O21: the failure cases, and the success case with the new session's buttons, map and controller model. -/
theorem setupFollowsItsRule : Obligations.SetupFollowsItsRule := by
  refine fun ok s => ⟨exec_setup_of_failure, ?_⟩
  rintro hl rfl
  have hs : s.session = none := by simpa using hl
  exact ⟨_, _, exec_setup_of_success hs, rfl, rfl, entry_newSession _ _, rfl, rfl, ⟨rfl, rfl, rfl, rfl⟩,
    shaped_newSession_lum _ _, fun hg => drawController_wf hg _⟩

/-! ### TEARDOWN (R117) -/

theorem exec_teardown (s : State) : exec .teardown s = .next { s with session := none } := rfl

/-- Settles O23: TEARDOWN by its equation, the second time on the state the first leaves. -/
theorem teardownEndsTheSession : Obligations.TeardownEndsTheSession := fun s =>
  ⟨exec_teardown s, exec_teardown { s with session := none }⟩

end Sys2Proof.Proofs
end

section
/-! PROOFS. The engine agent's five actions (44_environment_actions.md): each is one update of the Display Controller Model (R126 to
R130), and what such an action answers while not live and while live (R125). -/

namespace Sys2Proof.Proofs

open Sys2Proof.Machine

/-! ### The update each action makes (R126 to R130) -/

theorem operandsInRange_iff (g : Geometry) (p c : Byte) :
    operandsInRange g p c = true ↔ p.toNat < g.pages ∧ c.toNat < g.cols := by
  simp [operandsInRange]

theorem exec_cmData {s : State} {p c : Byte} (v : Byte) (hp : p.toNat < s.geom.pages) (hc : c.toNat < s.geom.cols) :
    exec (.cmData p c v) s =
      .next (s.onController fun cm => { cm with vram := Memory.write cm.vram p.toNat c.toNat v }) :=
  if_pos ((operandsInRange_iff _ _ _).2 ⟨hp, hc⟩)

theorem exec_cmCursor {s : State} {p c : Byte} (hp : p.toNat < s.geom.pages) (hc : c.toNat < s.geom.cols) :
    exec (.cmCursor p c) s =
      .next (s.onController fun cm => { cm with cursor := { page := p.toNat, col := c.toNat } }) :=
  if_pos ((operandsInRange_iff _ _ _).2 ⟨hp, hc⟩)

theorem exec_cmFlags (f : BitVec 4) (s : State) :
    exec (.cmFlags f) s = .next (s.onController fun cm => { cm with flags := f }) := rfl

theorem exec_cmContrast (k : Byte) (s : State) :
    exec (.cmContrast k) s = .next (s.onController fun cm => { cm with contrast := k }) := rfl

theorem exec_cmDirty (d : Bool) (s : State) :
    exec (.cmDirty d) s = .next (s.onController fun cm => { cm with dirty := d }) := rfl

/-! ### An action while not live and while live (R125) -/

section ControllerUpdate

variable {i : Instr} {s : State} {f : ControllerModel → ControllerModel}

theorem exec_of_onController_of_not_live (he : exec i s = .next (s.onController f)) (hs : s.session = none) :
    exec i s = .next s := by
  rw [he, onController_of_not_live _ hs]

theorem exec_of_onController_of_session {ss : Session} (he : exec i s = .next (s.onController f))
    (hs : s.session = some ss) : exec i s = .next { s with session := some { ss with cm := f ss.cm } } := by
  rw [he, onController_of_session _ hs]

end ControllerUpdate

/-! ### The five actions -/

/-- Settles O50: the byte by the laws of a write into an array of the right shape. -/
theorem cmDataWritesOneByte : Obligations.CmDataWritesOneByte := by
  intro s p c v hp hc
  have he := exec_cmData v hp hc
  refine ⟨exec_of_onController_of_not_live he, fun ss hs hm => ⟨_, _, exec_of_onController_of_session he hs, rfl, ?_⟩⟩
  exact ⟨Memory.shaped_write _ _ v hm, Memory.read_write_same v hm hp hc, fun _ _ => Memory.read_write_other _ v⟩

/-- Settles O51: the cursor update, for operands in range. -/
theorem cmCursorSetsTheCursor : Obligations.CmCursorSetsTheCursor := fun _ _ _ hp hc =>
  ⟨exec_of_onController_of_not_live (exec_cmCursor hp hc), fun _ => exec_of_onController_of_session (exec_cmCursor hp hc)⟩

/-- Settles O52: the register is the operand, whose bits the four accessors name. -/
theorem cmFlagsSetsTheFlags : Obligations.CmFlagsSetsTheFlags := fun s f =>
  ⟨exec_of_onController_of_not_live (exec_cmFlags f s), fun _ hs =>
    ⟨_, f, exec_of_onController_of_session (exec_cmFlags f s) hs, rfl, rfl, rfl, rfl, rfl⟩⟩

/-- Settles O53: the contrast update. -/
theorem cmContrastSetsTheContrast : Obligations.CmContrastSetsTheContrast := fun s k =>
  ⟨exec_of_onController_of_not_live (exec_cmContrast k s), fun _ => exec_of_onController_of_session (exec_cmContrast k s)⟩

/-- Settles O54: the update of the dirty flag, to either value. -/
theorem cmDirtySetsTheDirtyFlag : Obligations.CmDirtySetsTheDirtyFlag := fun s d =>
  ⟨exec_of_onController_of_not_live (exec_cmDirty d s), fun _ => exec_of_onController_of_session (exec_cmDirty d s)⟩

end Sys2Proof.Proofs
end

section
/-! PROOFS. Hardware reset (70_reset_and_hazards.md): what the reset state holds, and that it is the state TEARDOWN leaves (R160). -/

namespace Sys2Proof.Proofs

open Sys2Proof.Machine

section ResetWith

variable (g : Geometry) (wiring : PerButton Line) (pix : List Word)

@[simp] theorem resetWith_session : (State.resetWith g wiring pix).session = none := rfl
@[simp] theorem resetWith_pix : (State.resetWith g wiring pix).pix = pix := rfl
@[simp] theorem resetWith_events : (State.resetWith g wiring pix).events = [] := rfl

theorem resetWith_live : (State.resetWith g wiring pix).live = false := by simp

end ResetWith

/-- TEARDOWN has no live session to end (R117). -/
theorem exec_teardown_of_not_live {s : State} (hs : s.session = none) : exec .teardown s = .next s := by
  rw [exec_teardown, ← hs]

theorem exec_teardown_resetWith (g : Geometry) (wiring : PerButton Line) (pix : List Word) :
    exec .teardown (State.resetWith g wiring pix) = .next (State.resetWith g wiring pix) :=
  exec_teardown_of_not_live (resetWith_session g wiring pix)

/-- The host's buffer at reset holds PIX_INIT at each of its W*H indices (R27). -/
theorem reset_pix_getElem? {n : Nat} (hn : n < State.reset.geom.width * State.reset.geom.height) :
    State.reset.pix[n]? = some (Config.pixInit n) := by
  have hrange : (List.range (Config.geometry.width * Config.geometry.height))[n]? = some n := List.getElem?_range hn
  rw [State.reset, resetWith_pix, List.getElem?_map, hrange, Option.map_some]

/-- Settles O19: the machine's own reset is `State.resetWith` at its parameters and buffer, so only its buffer is new. -/
theorem resetIsTheStateTeardownLeaves : Obligations.ResetIsTheStateTeardownLeaves :=
  ⟨fun g wiring pix => ⟨resetWith_live g wiring pix, resetWith_session g wiring pix, resetWith_pix g wiring pix,
      resetWith_events g wiring pix, exec_teardown_resetWith g wiring pix⟩,
    rfl, resetWith_live _ _ _, resetWith_session _ _ _, resetWith_events _ _ _,
    fun _ => reset_pix_getElem?, exec_teardown_resetWith _ _ _⟩

end Sys2Proof.Proofs
end

section
/-! PROOFS. The command word (30_encoding.md): the decoder and the encoder are inverse to one another (R60 to R64), the words each
row of the opcode map accepts (R62), and the vectors of sections 2.6, 2.7 and R67. -/

namespace Sys2Proof.Proofs

open Sys2Proof.Machine Sys2Proof.Laws

/-! ### The operand forms of R62 -/

@[simp] theorem bitOnly_bitField (b : Bool) : bitOnly (bitField b) = true := by cases b <;> decide

@[simp] theorem getElem_bitField (b : Bool) : (bitField b)[0] = b := by cases b <;> decide

@[simp] theorem nibbleOnly_nibbleField : ∀ f : BitVec 4, nibbleOnly (nibbleField f) = true := by decide

@[simp] theorem extractLsb'_nibbleField : ∀ f : BitVec 4, (nibbleField f).extractLsb' 0 4 = f := by decide

theorem bitField_getElem : ∀ v : Byte, bitOnly v = true → bitField v[0] = v := by decide

theorem nibbleField_extractLsb' : ∀ v : Byte, nibbleOnly v = true → nibbleField (v.extractLsb' 0 4) = v := by decide

theorem ifZero_eq_ok {z : Bool} {i j : Instr} : ifZero z i = .ok j ↔ z = true ∧ i = j := by
  cases z <;> simp [ifZero]

theorem ifInRange_eq_ok {g : Geometry} {p c : Byte} {i j : Instr} :
    ifInRange g p c i = .ok j ↔ (p.toNat < g.pages ∧ c.toNat < g.cols) ∧ i = j := by
  unfold ifInRange
  by_cases hp : p.toNat < g.pages <;> by_cases hc : c.toNat < g.cols <;> simp [hp, hc]

/-! ### Decode of encode (R60 to R63) -/

theorem decode_joinFields (g : Geometry) (op f2 f1 f0 : Byte) :
    decode g (joinFields op f2 f1 f0) = decodeFields g op f2 f1 f0 := by
  simp [decode]

/-- Settles O1: by the row of the instruction, each operand read back from its field. -/
theorem decodeOfEncodeIsTheInstruction : Obligations.DecodeOfEncodeIsTheInstruction := by
  intro g i hi
  cases i with
  | cmData p c v | cmCursor p c =>
    simp only [Instr.wf, Bool.and_eq_true, decide_eq_true_eq] at hi
    simp [encode, decode_joinFields, decodeFields, ifInRange_eq_ok, hi]
  | _ => simp [encode, decode_joinFields, decodeFields, ifZero_eq_ok]

/-! ### Encode of decode (R62, R64) -/

/-- What a row reads from four fields has its operands in range and those fields as its command word. -/
theorem wf_and_encode_of_decodeFields {g : Geometry} {op f2 f1 f0 : Byte} {i : Instr}
    (h : decodeFields g op f2 f1 f0 = .ok i) : i.wf g = true ∧ encode i = joinFields op f2 f1 f0 := by
  unfold decodeFields at h
  split at h
  case h_7 =>
    obtain ⟨hr, rfl⟩ := ifInRange_eq_ok.1 h
    simp [Instr.wf, encode, hr]
  case h_8 =>
    split at h
    case isTrue hz =>
      obtain ⟨hr, rfl⟩ := ifInRange_eq_ok.1 h
      simp_all [Instr.wf, encode]
    case isFalse => cases h
  case h_12 => cases h
  all_goals
    obtain ⟨hz, rfl⟩ := ifZero_eq_ok.1 h
    simp only [Bool.and_eq_true, beq_iff_eq] at hz
    simp [Instr.wf, encode, hz, bitField_getElem, nibbleField_extractLsb']

/-- Settles O2: a word is its four fields joined, and each row reads back to the fields it was read from. -/
theorem encodeOfDecodeIsTheWord : Obligations.EncodeOfDecodeIsTheWord := by
  intro g w i h
  obtain ⟨hwf, he⟩ := wf_and_encode_of_decodeFields h
  exact ⟨hwf, he.trans (joinFields_fields w)⟩

/-! ### The opcode map (R62) -/

theorem fieldOp_and (w m : Word) : fieldOp (w &&& m) = fieldOp w &&& fieldOp m := BitVec.extractLsb'_and

theorem fieldF2_and (w m : Word) : fieldF2 (w &&& m) = fieldF2 w &&& fieldF2 m := BitVec.extractLsb'_and

theorem fieldF1_and (w m : Word) : fieldF1 (w &&& m) = fieldF1 w &&& fieldF1 m := BitVec.extractLsb'_and

theorem fieldF0_and (w m : Word) : fieldF0 (w &&& m) = fieldF0 w &&& fieldF0 m := BitVec.extractLsb'_and

/-- Every row fixes the whole of `op`. -/
theorem fieldOp_eq_of_mem_opcodeTable {r : OpcodeRow} (hr : r ∈ opcodeTable) {w : Word} (h : w &&& r.mask = r.pattern) :
    fieldOp w = fieldOp r.pattern := by
  have hmask : ∀ r ∈ opcodeTable, fieldOp r.mask = BitVec.allOnes 8 := by decide
  rw [← h, fieldOp_and, hmask r hr, BitVec.and_allOnes]

/-- Settles O4: no two rows of the table fix the same `op`. -/
theorem noWordMatchesTwoRows : Obligations.NoWordMatchesTwoRows := by
  intro w r hr r' hr' h h'
  have hop : ∀ r ∈ opcodeTable, ∀ r' ∈ opcodeTable, fieldOp r.pattern = fieldOp r'.pattern → r = r' := by decide
  exact hop r hr r' hr'
    ((fieldOp_eq_of_mem_opcodeTable hr h).symm.trans (fieldOp_eq_of_mem_opcodeTable hr' h'))

/-- Whatever its operands, the command word of an instruction has the fixed bits of its row. -/
theorem tableRow (i : Instr) : TableRow.Statement i := by
  cases i with
  | nop => exact TableRow.nop
  | setup ok => exact TableRow.setup ok
  | teardown => exact TableRow.teardown
  | setbtn id p => exact TableRow.setbtn id p
  | wrnotify => exact TableRow.wrnotify
  | composite => exact TableRow.composite
  | cmData p c v => exact TableRow.cmData p c v
  | cmCursor p c => exact TableRow.cmCursor p c
  | cmFlags f => exact TableRow.cmFlags f
  | cmContrast k => exact TableRow.cmContrast k
  | cmDirty d => exact TableRow.cmDirty d

/-- Only the rows of CM.DATA and CM.CURSOR are ranged. -/
theorem mnemonic_of_ranged : ∀ r ∈ opcodeTable, r.ranged = true → r.mnemonic = "CM.DATA" ∨ r.mnemonic = "CM.CURSOR" := by
  decide

/-- The command word of a well-formed instruction has its page and column in range, if its row is ranged. -/
theorem range_of_wf {g : Geometry} {i : Instr} {r : OpcodeRow} (hr : r ∈ opcodeTable) (hn : r.mnemonic = i.mnemonic)
    (hwf : i.wf g = true) (hranged : r.ranged = true) :
    (fieldF2 (encode i)).toNat < g.pages ∧ (fieldF1 (encode i)).toNat < g.cols := by
  have hm := mnemonic_of_ranged r hr hranged
  rw [hn] at hm
  cases i with
  | cmData p c v | cmCursor p c => simpa [Instr.wf, encode] using hwf
  | _ => simp [Instr.mnemonic] at hm

/-- The row that bears the mnemonic of a well-formed instruction accepts its command word. -/
theorem exists_row_accepts_encode {g : Geometry} {i : Instr} (hwf : i.wf g = true) :
    ∃ r ∈ opcodeTable, r.accepts g (encode i) = true ∧ r.mnemonic = i.mnemonic := by
  obtain ⟨r, hr, hn, hbits⟩ := tableRow i
  refine ⟨r, hr, ?_, hn⟩
  cases hranged : r.ranged with
  | false => simp [OpcodeRow.accepts, hbits, hranged]
  | true => simp [OpcodeRow.accepts, hbits, range_of_wf hr hn hwf hranged]

theorem and_ff (v : Byte) : v &&& 255#8 = v := BitVec.and_allOnes

theorem bitField_of_masked : ∀ v : Byte, v &&& 254#8 = 0#8 → bitField v[0] = v := by decide

theorem nibbleField_of_masked : ∀ v : Byte, v &&& 240#8 = 0#8 → nibbleField (v.extractLsb' 0 4) = v := by decide

/-- Four fields that have the fixed bits of a row, in range if it is ranged, are the command word of an instruction. -/
theorem exists_encode_of_masked {g : Geometry} {r : OpcodeRow} {op f2 f1 f0 : Byte} (hr : r ∈ opcodeTable)
    (hop : op &&& fieldOp r.mask = fieldOp r.pattern) (hf2 : f2 &&& fieldF2 r.mask = fieldF2 r.pattern)
    (hf1 : f1 &&& fieldF1 r.mask = fieldF1 r.pattern) (hf0 : f0 &&& fieldF0 r.mask = fieldF0 r.pattern)
    (hrange : r.ranged = true → f2.toNat < g.pages ∧ f1.toNat < g.cols) :
    ∃ i : Instr, i.wf g = true ∧ encode i = joinFields op f2 f1 f0 := by
  simp only [opcodeTable, List.mem_cons, List.not_mem_nil, or_false] at hr
  rcases hr with rfl | rfl | rfl | rfl | rfl | rfl | rfl | rfl | rfl | rfl | rfl <;>
    simp only [fieldOp, fieldF2, fieldF1, fieldF0, BitVec.ofNat_eq_ofNat, BitVec.reduceExtractLsb', and_ff, BitVec.and_zero,
      forall_const] at hop hf2 hf1 hf0 hrange
  · exact ⟨.nop, rfl, by simp [encode, *]⟩
  · exact ⟨.setup f0[0], rfl, by simp [encode, bitField_of_masked, *]⟩
  · exact ⟨.teardown, rfl, by simp [encode, *]⟩
  · exact ⟨.setbtn f2 f0[0], rfl, by simp [encode, bitField_of_masked, *]⟩
  · exact ⟨.wrnotify, rfl, by simp [encode, *]⟩
  · exact ⟨.composite, rfl, by simp [encode, *]⟩
  · exact ⟨.cmData f2 f1 f0, by simp [Instr.wf, hrange], by simp [encode, *]⟩
  · exact ⟨.cmCursor f2 f1, by simp [Instr.wf, hrange], by simp [encode, *]⟩
  · exact ⟨.cmFlags (f0.extractLsb' 0 4), rfl, by simp [encode, nibbleField_of_masked, *]⟩
  · exact ⟨.cmContrast f0, rfl, by simp [encode, *]⟩
  · exact ⟨.cmDirty f0[0], rfl, by simp [encode, bitField_of_masked, *]⟩

/-- A word that a row accepts decodes: it is the command word of a well-formed instruction. -/
theorem decode_of_row_accepts {g : Geometry} {w : Word} {r : OpcodeRow} (hr : r ∈ opcodeTable)
    (ha : r.accepts g w = true) : ∃ i, decode g w = .ok i := by
  simp only [OpcodeRow.accepts, Bool.and_eq_true, beq_iff_eq, Bool.or_eq_true, Bool.not_eq_true', decide_eq_true_eq] at ha
  obtain ⟨hbits, hrange⟩ := ha
  obtain ⟨i, hwf, he⟩ := exists_encode_of_masked hr
    (by rw [← fieldOp_and, hbits]) (by rw [← fieldF2_and, hbits]) (by rw [← fieldF1_and, hbits])
    (by rw [← fieldF0_and, hbits]) fun ht => hrange.resolve_left (by simp [ht])
  rw [joinFields_fields] at he
  exact ⟨i, he ▸ decodeOfEncodeIsTheInstruction g i hwf⟩

/-- A word that decodes is accepted by the row of its instruction. -/
theorem exists_row_accepts_of_decode {g : Geometry} {w : Word} {i : Instr} (h : decode g w = .ok i) :
    ∃ r ∈ opcodeTable, r.accepts g w = true ∧ r.mnemonic = i.mnemonic := by
  obtain ⟨hwf, rfl⟩ := encodeOfDecodeIsTheWord g w i h
  exact exists_row_accepts_encode hwf

/-- Settles O3: accepted words are the command words of well-formed instructions, both by the table and by the decoder. -/
theorem decoderAcceptsExactlyTheOpcodeMap : Obligations.DecoderAcceptsExactlyTheOpcodeMap := by
  refine fun g w => ⟨⟨fun ⟨i, h⟩ => ?_, fun ⟨r, hr, ha⟩ => decode_of_row_accepts hr ha⟩,
    fun i => exists_row_accepts_of_decode⟩
  obtain ⟨r, hr, ha, -⟩ := exists_row_accepts_of_decode h
  exact ⟨r, hr, ha⟩

/-! ### Vectors of the spec -/

/-- Settles O5: each word by evaluating the decoder. -/
theorem specWordsDecodeAsPrinted : Obligations.SpecWordsDecodeAsPrinted := by
  unfold Obligations.SpecWordsDecodeAsPrinted
  decide

/-- Settles O6: each line by evaluating the assembler. -/
theorem assemblerGivesTheSpecWords : Obligations.AssemblerGivesTheSpecWords := by
  unfold Obligations.AssemblerGivesTheSpecWords
  decide

end Sys2Proof.Proofs
end

section
/-! PROOFS. What an operation or action can do to the whole state: the one inversion of `exec` (`Effect`), totality (R135), the
no-ops while not live (R118, R145), and who writes what (R7, R23, R125, R138). -/

namespace Sys2Proof.Proofs

open Sys2Proof.Machine

/-! ### The engine actions as updates of the Display Controller Model -/

theorem onController_id (s : State) : (s.onController fun cm => cm) = s := by
  simp [State.onController, State.onSession]

/-- An action whose operands are out of range has no effect (R64 (c)). -/
theorem exec_of_not_wf {s : State} {i : Instr} (h : i.wf s.geom = false) : exec i s = .next s := by
  cases i with
  | cmData p c v | cmCursor p c => exact if_neg (Bool.eq_false_iff.1 h)
  | _ => cases h

/-- Settles O9: the guard of the two ranged actions. -/
theorem outOfRangeActionIsNoOperation : Obligations.OutOfRangeActionIsNoOperation := fun _ _ => exec_of_not_wf

/-- No instruction is performed by the host (R8). -/
theorem performer_engine_or_block (i : Instr) : i.performer = .engine ∨ i.performer = .block := by
  cases i <;> simp [Instr.performer]

/-- At one geometry an action of the engine agent is one update of the Display Controller Model, which keeps it well formed. -/
theorem exists_controllerUpdate {i : Instr} (hi : i.performer = .engine) (g : Geometry) :
    ∃ f : ControllerModel → ControllerModel, (∀ cm, cm.WF g → (f cm).WF g) ∧
      ∀ s : State, s.geom = g → exec i s = .next (s.onController f) := by
  cases hwf : i.wf g with
  | false =>
    refine ⟨fun cm => cm, fun _ h => h, fun s hg => ?_⟩
    rw [onController_id, exec_of_not_wf (hg ▸ hwf)]
  | true =>
    cases i with
    | cmData p c v =>
      simp only [Instr.wf, Bool.and_eq_true, decide_eq_true_eq] at hwf
      refine ⟨_, fun cm ⟨hm, hcur⟩ => ?_, fun s hg => exec_cmData v (hg ▸ hwf.1) (hg ▸ hwf.2)⟩
      exact ⟨Memory.shaped_write _ _ v hm, hcur⟩
    | cmCursor p c =>
      simp only [Instr.wf, Bool.and_eq_true, decide_eq_true_eq] at hwf
      refine ⟨_, ?_, fun s hg => exec_cmCursor (hg ▸ hwf.1) (hg ▸ hwf.2)⟩
      exact fun cm ⟨hm, _⟩ => ⟨hm, hwf⟩
    | cmFlags f => exact ⟨_, by exact fun _ h => h, fun s _ => exec_cmFlags f s⟩
    | cmContrast k => exact ⟨_, by exact fun _ h => h, fun s _ => exec_cmContrast k s⟩
    | cmDirty d => exact ⟨_, by exact fun _ h => h, fun s _ => exec_cmDirty d s⟩
    | _ => cases hi

/-! ### The inversion of `exec` -/

/-- What an instruction that answers a next state can have done. -/
inductive Effect (s : State) : Instr → State → Prop where
  | unchanged {i : Instr} (hi : ∀ ok, i ≠ .setup ok) : Effect s i s
  | setupFailed (ok : Bool) : Effect s (.setup ok) { s with events := s.events ++ [.setupResult .failure] }
  | setupDone (hs : s.session = none) : Effect s (.setup true) { s with
      session := some (newSession s.geom s.draws)
      draws := s.draws + 1
      events := s.events ++ [.setupResult .success] }
  | ended : Effect s .teardown { s with session := none }
  | reported {id : Byte} {p : Bool} {ss : Session} {b : ButtonId} (hs : s.session = some ss)
      (hp : p ≠ (entry ss.buttons b).pressed) : Effect s (.setbtn id p) (s.reportButton b p)
  | decoded {ss : Session} (hs : s.session = some ss) :
      Effect s .wrnotify { s with session := some (ss.decoded s.geom) }
  | composited (f : BitVec 4) (k : Byte) (lum : List (List Bool)) :
      Effect s .composite { s with pix := compositeFrame s.geom f k lum }
  | controlled {i : Instr} {f : ControllerModel → ControllerModel} (hi : i.performer = .engine)
      (hf : ∀ cm, cm.WF s.geom → (f cm).WF s.geom) : Effect s i (s.onController f)

/-- Every next state is one of the effects. -/
theorem effect_of_exec {i : Instr} {s t : State} (h : exec i s = .next t) : Effect s i t := by
  obtain hi | hi := performer_engine_or_block i
  · obtain ⟨f, hf, he⟩ := exists_controllerUpdate hi s.geom
    cases (he s rfl).symm.trans h
    exact .controlled hi hf
  · cases i with
    | nop => cases h; exact .unchanged nofun
    | setup ok =>
      obtain ⟨-, he⟩ | ⟨hs, rfl, he⟩ := execSetup_cases ok s <;> cases he.symm.trans h
      · exact .setupFailed ok
      · exact .setupDone hs
    | teardown => cases h; exact .ended
    | setbtn id p =>
      obtain ⟨-, he⟩ | ⟨ss, b, hs, -, hp, he⟩ := execSetbtn_cases id p s <;> cases he.symm.trans h
      · exact .unchanged nofun
      · exact .reported hs hp
    | wrnotify =>
      cases hs : s.session with
      | none => cases (exec_wrnotify_of_not_live hs).symm.trans h; exact .unchanged nofun
      | some ss =>
        by_cases hd : decodeDue ss.cm = true
        · cases (exec_wrnotify_of_due hs hd).symm.trans h; exact .decoded hs
        · cases (exec_wrnotify_of_not_due hs hd).symm.trans h; exact .unchanged nofun
    | composite =>
      obtain ⟨-, he⟩ | ⟨ss, -, -, -, he⟩ | ⟨-, he⟩ := execComposite_cases s <;> cases he.symm.trans h
      · exact .unchanged nofun
      · exact .composited _ _ _
    | _ => cases hi

/-! ### Totality, and the no-ops while not live -/

/-- COMPOSITE answers a next state on a buffer of W*H words. -/
theorem completes_composite {s : State} (hp : s.pix.length = s.geom.width * s.geom.height) :
    Completes (exec .composite s) := by
  obtain ⟨-, he⟩ | ⟨ss, -, -, -, he⟩ | ⟨hne, -⟩ := execComposite_cases s
  · exact ⟨_, he⟩
  · exact ⟨_, he⟩
  · exact absurd hp hne

/-- Settles O18: the engine's actions are updates; of the block's operations only COMPOSITE can be refused. -/
theorem everyOperationIsTotal : Obligations.EveryOperationIsTotal := by
  intro i s h
  obtain hi | hi := performer_engine_or_block i
  · obtain ⟨f, -, he⟩ := exists_controllerUpdate hi s.geom
    exact ⟨_, he s rfl⟩
  · cases i with
    | nop => exact ⟨_, exec_nop s⟩
    | setup ok => obtain ⟨-, he⟩ | ⟨-, -, he⟩ := execSetup_cases ok s <;> exact ⟨_, he⟩
    | teardown => exact ⟨_, exec_teardown s⟩
    | setbtn id p => obtain ⟨-, he⟩ | ⟨_, _, -, -, -, he⟩ := execSetbtn_cases id p s <;> exact ⟨_, he⟩
    | wrnotify => exact ⟨_, exec_wrnotify s⟩
    | composite => exact completes_composite (h.resolve_left fun hne => hne rfl)
    | _ => cases hi

/-- While not live every instruction but SETUP is a no-op (R118, R145). -/
theorem exec_of_not_live {i : Instr} {s : State} (hs : s.session = none) (hi : ∀ ok, i ≠ .setup ok) :
    exec i s = .next s := by
  obtain hp | hp := performer_engine_or_block i
  · obtain ⟨f, -, he⟩ := exists_controllerUpdate hp s.geom
    exact exec_of_onController_of_not_live (he s rfl) hs
  · cases i with
    | nop => exact exec_nop s
    | setup ok => exact absurd rfl (hi ok)
    | teardown => exact exec_teardown_of_not_live hs
    | setbtn id p => exact exec_setbtn_of_not_live id p hs
    | wrnotify => exact exec_wrnotify_of_not_live hs
    | composite => exact exec_composite_of_not_live hs
    | _ => cases hp

/-- Settles O26: SETUP 0 by its failure case, every other instruction but SETUP by its no-op. -/
theorem whileNotLiveOnlySetupActs : Obligations.WhileNotLiveOnlySetupActs := by
  intro i s hs hi
  by_cases hf : i = .setup false
  · subst hf
    exact exec_setup_of_failure (.inr rfl)
  · rw [if_neg hf]
    refine exec_of_not_live hs fun ok h => ?_
    cases ok with
    | true => exact hi h
    | false => exact hf h

/-! ### Who writes what -/

/-- No operation and no action writes the parameters, the words still to arrive or the stream index. -/
theorem sameMachine_of_exec {i : Instr} {s t : State} (h : exec i s = .next t) : SameMachine s t := by
  cases effect_of_exec h <;> exact ⟨rfl, rfl, rfl, rfl⟩

/-- Settles O27: of the effects one brings a session and one takes it away. -/
theorem sessionsBeginBySetupAndEndByTeardown : Obligations.SessionsBeginBySetupAndEndByTeardown := by
  intro i s t h
  cases effect_of_exec h with
  | setupDone hs => exact ⟨fun _ _ => rfl, fun hlive => by simp [hs] at hlive⟩
  | ended => exact ⟨fun _ hlive => absurd hlive (by simp), fun _ _ => rfl⟩
  | unchanged | setupFailed | composited =>
    constructor <;> exact fun hs ht => by cases hs.symm.trans ht
  | reported hs | decoded hs => simp [hs]
  | controlled => constructor <;> simp_all

/-- Settles O55: an engine action maps the session, and of it the Display Controller Model only. -/
theorem engineActionsTouchOnlyTheController : Obligations.EngineActionsTouchOnlyTheController := by
  intro i s t hi h
  obtain ⟨f, -, he⟩ := exists_controllerUpdate hi s.geom
  cases (he s rfl).symm.trans h
  refine ⟨rfl, by simp, fun ss hs tt ht => ?_⟩
  obtain rfl : { ss with cm := f ss.cm } = tt := by simpa [Option.mem_def.1 hs] using ht
  exact ⟨rfl, rfl⟩

/-- Settles O56: only a decode and a new session write the model, and a new session begins where there was none. -/
theorem blockOnlyClearsDirty : Obligations.BlockOnlyClearsDirty := by
  intro i s t hi h ss hs tt ht
  rw [Option.mem_def] at hs ht
  cases effect_of_exec h with
  | controlled hi' => rw [hi] at hi'; cases hi'
  | setupDone hn => rw [hn] at hs; cases hs
  | ended => cases ht
  | reported =>
    obtain rfl : { ss with buttons := _ } = tt := by simpa [hs] using ht
    exact ⟨rfl, id⟩
  | decoded hs' =>
    cases hs.symm.trans hs'
    cases ht
    exact ⟨rfl, nofun⟩
  | unchanged | setupFailed | composited =>
    cases hs.symm.trans ht
    exact ⟨rfl, id⟩

/-- Settles O57: each effect by the one output it writes. -/
theorem eachOutputHasOneWriter : Obligations.EachOutputHasOneWriter := by
  intro i s t h
  simp only [Option.mem_def]
  cases effect_of_exec h with
  | unchanged | setupFailed =>
    refine ⟨absurd rfl, fun ss hs tt ht => ?_⟩
    cases hs.symm.trans ht
    exact ⟨absurd rfl, absurd rfl⟩
  | setupDone hn => exact ⟨absurd rfl, fun ss hs => by cases hn.symm.trans hs⟩
  | ended => exact ⟨absurd rfl, fun _ _ _ ht => by cases ht⟩
  | reported =>
    refine ⟨absurd rfl, fun ss hs tt ht => ?_⟩
    obtain rfl : { ss with buttons := _ } = tt := by simpa [hs] using ht
    exact ⟨absurd rfl, fun _ => ⟨_, _, rfl⟩⟩
  | decoded hs' =>
    refine ⟨absurd rfl, fun ss hs tt ht => ?_⟩
    cases hs.symm.trans hs'
    cases ht
    exact ⟨fun _ => rfl, absurd rfl⟩
  | composited =>
    refine ⟨fun _ => rfl, fun ss hs tt ht => ?_⟩
    cases hs.symm.trans ht
    exact ⟨absurd rfl, absurd rfl⟩
  | controlled =>
    refine ⟨absurd rfl, fun ss hs tt ht => ?_⟩
    obtain rfl : { ss with cm := _ } = tt := by simpa [hs] using ht
    exact ⟨absurd rfl, absurd rfl⟩

/-- Settles O58: an effect appends the one event of a SETUP, the one raise call of a report, or nothing. -/
theorem eventsAreOnlyAppended : Obligations.EventsAreOnlyAppended := by
  intro i s t h
  cases effect_of_exec h with
  | setupFailed => exact ⟨[.setupResult .failure], by simp⟩
  | setupDone => exact ⟨[.setupResult .success], by simp⟩
  | reported => exact ⟨[_], reportButton_events .., by simp⟩
  | unchanged hi => exact ⟨[], by simp [hi]⟩
  | controlled hi =>
    have hne : ∀ ok, i ≠ .setup ok := by rintro ok rfl; cases hi
    exact ⟨[], by simp [hne]⟩
  | ended | decoded | composited => exact ⟨[], by simp⟩

end Sys2Proof.Proofs
end

section
/-! PROOFS. One step (R60, R64, R69, R178): what it does with each kind of arrival, and how a fact about every state of a run is proved
of it. -/

namespace Sys2Proof.Proofs

open Sys2Proof.Machine

/-! ### The step on each kind of arrival -/

theorem step_of_empty_port {s : State} (h : s.arrivals = []) : step s = .next s := by
  simp [step, takeArrival, awaitArrival, h]

theorem step_hostPixel {s : State} {n : Nat} {v : Word} {rest : List Arrival} (h : s.arrivals = .hostPixel n v :: rest) :
    step s = .next { s with arrivals := rest, pix := s.pix.set n v } := by
  simp [step, takeArrival, performHostPixel, h]

/-- Settles O7: the step on a word, in the case that it decodes. -/
theorem stepRunsTheDecodedInstruction : Obligations.StepRunsTheDecodedInstruction := by
  intro s w rest i h hd
  rw [step_word h, hd]

/-- Settles O8: what no row accepts does not decode, and the step on a word passes over it. -/
theorem reservedWordIsNoOperation : Obligations.ReservedWordIsNoOperation := by
  intro s w rest h hr
  rw [step_word h]
  cases hd : decode s.geom w with
  | error => rfl
  | ok i =>
    obtain ⟨r, hmem, ha, -⟩ := exists_row_accepts_of_decode hd
    simp [hr r hmem] at ha

/-- Settles O10: the store is a replacement of one list element. -/
theorem hostStoreChangesOnlyItsPixel : Obligations.HostStoreChangesOnlyItsPixel := by
  intro s n v rest h
  refine ⟨_, step_hostPixel h, rfl, List.length_set, fun hn => ?_, fun k hk => ?_⟩
  · exact List.getElem?_set_self hn
  · exact List.getElem?_set_ne hk.symm

/-! ### Facts that every step keeps -/

/-- A fact that does not speak of the port, and that every instruction and every host store keeps, is kept by every step. -/
theorem step_preserves {P : State → Prop} (hport : ∀ s arrivals sp, P s → P { s with arrivals := arrivals, sp := sp })
    (hexec : ∀ i s t, P s → exec i s = .next t → P t) (hstore : ∀ s n v, P s → P { s with pix := s.pix.set n v })
    {s t : State} (hs : P s) (h : step s = .next t) : P t := by
  cases ha : s.arrivals with
  | nil => cases (step_of_empty_port ha).symm.trans h; exact hs
  | cons a rest =>
    cases a with
    | hostPixel n v =>
      cases (step_hostPixel ha).symm.trans h
      exact hport _ rest s.sp (hstore s n v hs)
    | word w =>
      rw [step_word ha] at h
      cases hd : decode s.geom w with
      | error => rw [hd] at h; cases h; exact hport s _ _ hs
      | ok i => rw [hd] at h; exact hexec i _ t (hport s _ _ hs) h

/-- Settles O11: the port is as it was left when the word was taken, for no instruction writes it. -/
theorem wordsArePerformedInOrder : Obligations.WordsArePerformedInOrder := by
  intro s t w rest ha h
  rw [step_word ha] at h
  cases hd : decode s.geom w with
  | error => rw [hd] at h; cases h; exact ⟨rfl, rfl⟩
  | ok i =>
    rw [hd] at h
    obtain ⟨-, -, harrivals, hsp⟩ := sameMachine_of_exec h
    exact ⟨harrivals, hsp⟩

/-- Settles O12: having the parameters of `s` is a fact that every step keeps. -/
theorem parametersNeverChange : Obligations.ParametersNeverChange := by
  intro s t h
  refine step_preserves (P := fun u => u.geom = s.geom ∧ u.wiring = s.wiring) (fun _ _ _ hu => hu) ?_
    (fun _ _ _ hu => hu) ⟨rfl, rfl⟩ h
  intro i u v ⟨hg, hw⟩ he
  obtain ⟨hg', hw', -, -⟩ := sameMachine_of_exec he
  exact ⟨hg'.trans hg, hw'.trans hw⟩

end Sys2Proof.Proofs
end

section
/-! PROOFS. The invariant of the machine (R14 to R18, R22): the reset state has it, every step keeps it, and from it every run
completes (R135). -/

namespace Sys2Proof.Proofs

open Sys2Proof.Machine

/-! ### Well-formed sessions -/

/-- The active-low law of R14, entry by entry. -/
theorem session_wf_iff (g : Geometry) (ss : Session) :
    ss.WF g ↔ Memory.Shaped g.height g.width ss.lum ∧ ss.cm.WF g ∧
      ∀ b, (entry ss.buttons b).line = levelOf (entry ss.buttons b).pressed := by
  simp only [Session.WF, mem_toList_iff, forall_exists_index, forall_apply_eq_imp_iff]

theorem newSession_wf {g : Geometry} (hg : g.WF) (n : Nat) : (newSession g n).WF g := by
  refine (session_wf_iff _ _).2 ⟨shaped_newSession_lum g n, drawController_wf hg n, fun b => ?_⟩
  rw [entry_newSession]
  rfl

theorem decoded_wf {g : Geometry} {ss : Session} (h : ss.WF g) : (ss.decoded g).WF g := by
  obtain ⟨-, hcm, hb⟩ := h
  exact ⟨shaped_decodeVram g _, hcm, hb⟩

/-- A report stores the state and the level together. -/
theorem reported_wf {g : Geometry} {ss : Session} (h : ss.WF g) (b : ButtonId) (p : Bool) :
    Session.WF g { ss with buttons := setEntry ss.buttons b { pressed := p, line := levelOf p } } := by
  rw [session_wf_iff] at h ⊢
  obtain ⟨hlum, hcm, hb⟩ := h
  refine ⟨hlum, hcm, fun b' => ?_⟩
  by_cases hbb : b' = b
  · subst hbb; simp
  · simpa only [entry_setEntry_other _ _ hbb] using hb b'

/-! ### Well-formed states -/

/-- Settles O14: the wiring is drawn distinct, the buffer has one word for each index below W*H, and there is no session. -/
theorem resetIsWellFormed : Obligations.ResetIsWellFormed := by
  refine ⟨by decide, (Config.wiringDraw _).property, ?_, fun _ h => by cases h⟩
  rw [State.reset, resetWith_pix, List.length_map, List.length_range]
  rfl

theorem wf_of_exec {i : Instr} {s t : State} (hs : s.WF) (h : exec i s = .next t) : t.WF := by
  obtain ⟨hg, hw, hp, hss⟩ := hs
  cases effect_of_exec h with
  | unchanged | setupFailed => exact ⟨hg, hw, hp, hss⟩
  | setupDone => exact ⟨hg, hw, hp, by rintro _ ⟨⟩; exact newSession_wf hg _⟩
  | ended => exact ⟨hg, hw, hp, fun _ h => by cases h⟩
  | reported hsome =>
    rw [reportButton_of_session _ _ hsome]
    exact ⟨hg, hw, hp, by rintro _ ⟨⟩; exact reported_wf (hss _ hsome) _ _⟩
  | decoded hsome => exact ⟨hg, hw, hp, by rintro _ ⟨⟩; exact decoded_wf (hss _ hsome)⟩
  | composited => exact ⟨hg, hw, compositeFrame_length .., hss⟩
  | controlled _ hf =>
    refine ⟨hg, hw, hp, fun tt ht => ?_⟩
    obtain ⟨ss, hsome, rfl⟩ := Option.map_eq_some_iff.1 ht
    obtain ⟨hlum, hcm, hb⟩ := hss ss hsome
    exact ⟨hlum, hf _ hcm, hb⟩

/-- A host store keeps the size of the buffer. -/
theorem wf_of_hostStore {s : State} (n : Nat) (v : Word) (hs : s.WF) : State.WF { s with pix := s.pix.set n v } := by
  obtain ⟨hg, hw, hp, hss⟩ := hs
  exact ⟨hg, hw, List.length_set.trans hp, hss⟩

theorem wf_of_step {s t : State} (hs : s.WF) (h : step s = .next t) : t.WF :=
  step_preserves (P := State.WF) (fun _ _ _ hu => hu) (fun _ _ _ => wf_of_exec) (fun _ => wf_of_hostStore) hs h

/-- Settles O13: every effect and every host store keeps the invariant. -/
theorem stepKeepsTheMachineWellFormed : Obligations.StepKeepsTheMachineWellFormed := fun _ _ => wf_of_step

/-! ### Runs -/

/-- From a well-formed state the step answers a next state: its buffer is of the size COMPOSITE asks for. -/
theorem completes_step {s : State} (hs : s.WF) : Completes (step s) := by
  obtain ⟨-, -, hp, -⟩ := hs
  cases ha : s.arrivals with
  | nil => exact ⟨_, step_of_empty_port ha⟩
  | cons a rest =>
    cases a with
    | hostPixel n v => exact ⟨_, step_hostPixel ha⟩
    | word w =>
      rw [step_word ha]
      cases decode s.geom w with
      | error => exact ⟨_, rfl⟩
      | ok i => exact everyOperationIsTotal i _ (.inr hp)

/-- Settles O17, by induction on the number of steps: each completes, in a state that is well formed again. -/
theorem wellFormedRunsNeverStop : Obligations.WellFormedRunsNeverStop := by
  intro n
  induction n with
  | zero => exact fun s hs => ⟨s, rfl, hs⟩
  | succ n ih =>
    intro s hs
    obtain ⟨t, ht⟩ := completes_step hs
    obtain ⟨u, hu, hwf⟩ := ih t (wf_of_step hs ht)
    have hstep : Sys2Proof.core.step s = .next t := ht
    exact ⟨u, by simpa only [Host.Core.run, hstep] using hu, hwf⟩

end Sys2Proof.Proofs
end

section
/-! PROOFS. The Button Bridge's promise (R107): the reset state keeps it and so does every step. -/

namespace Sys2Proof.Proofs

open Sys2Proof.Machine

/-! ### Levels raised on a line -/

theorem levelsSinceSetup_append (l : Line) (es : List Event) (e : Event) :
    levelsSinceSetup l (es ++ [e]) = levelsStep l (levelsSinceSetup l es) e := by
  simp [levelsSinceSetup]

/-- One more level keeps the alternation when it is the opposite of the last. -/
theorem alternatesFrom_append (level v : Bool) (vs : List Bool) :
    alternatesFrom level (vs ++ [v]) = (alternatesFrom level vs && (v == !vs.getLastD level)) := by
  induction vs generalizing level with
  | nil => simp [alternatesFrom]
  | cons u us ih => rw [List.cons_append, alternatesFrom, ih, alternatesFrom, List.getLastD_cons, Bool.and_assoc]

/-! ### The promise of one session -/

/-- R107 (a), (b) for the button table of a live session: the second half of `State.BridgeInv`. -/
def Promise (w : PerButton Line) (es : List Event) (buttons : PerButton Button) : Prop :=
  ∀ b : ButtonId, alternatesFrom true (levelsSinceSetup (entry w b) es) = true ∧
    (levelsSinceSetup (entry w b) es).getLastD true = (entry buttons b).line

theorem bridgeInv_iff (s : State) :
    s.BridgeInv ↔ s.WF ∧ ∀ ss ∈ s.session, Promise s.wiring s.events ss.buttons := Iff.rfl

/-- A failed SETUP raises nothing. -/
theorem promise_setupFailed {w : PerButton Line} {es : List Event} {buttons : PerButton Button}
    (h : Promise w es buttons) : Promise w (es ++ [.setupResult .failure]) buttons := fun b => by
  rw [levelsSinceSetup_append]
  exact h b

/-- A new session starts with no level raised and every line high. -/
theorem promise_newSession (w : PerButton Line) (es : List Event) (g : Geometry) (n : Nat) :
    Promise w (es ++ [.setupResult .success]) (newSession g n).buttons := fun b => by
  rw [levelsSinceSetup_append, entry_newSession]
  exact ⟨rfl, rfl⟩

/-- A transition raises on its own line the opposite of the level the line has, and on no other line. -/
theorem promise_reported {w : PerButton Line} {es : List Event} {buttons : PerButton Button} {b : ButtonId} {p : Bool}
    (hw : WiringDistinct w) (hline : (entry buttons b).line = levelOf (entry buttons b).pressed)
    (hp : p ≠ (entry buttons b).pressed) (h : Promise w es buttons) :
    Promise w (es ++ [.raiseLine (entry w b) (levelOf p)])
      (setEntry buttons b { pressed := p, line := levelOf p }) := fun b' => by
  obtain ⟨halt, hlast⟩ := h b'
  rw [levelsSinceSetup_append, levelsStep]
  by_cases hb : b' = b
  · subst hb
    have hlevel : levelOf p = !(entry buttons b').line := by rw [hline, levelOf, levelOf, Bool.eq_not.2 hp]
    rw [if_pos rfl, alternatesFrom_append, halt, hlast, ← hlevel, entry_setEntry_same]
    simp
  · rw [if_neg fun hl => hb (entry_injective hw hl).symm, entry_setEntry_other _ _ hb]
    exact ⟨halt, hlast⟩

/-! ### The promise of every state -/

/-- Settles O16: at reset there is no session to keep it of. -/
theorem resetKeepsTheBridgePromise : Obligations.ResetKeepsTheBridgePromise :=
  ⟨resetIsWellFormed, fun _ h => by cases h⟩

theorem bridgeInv_of_exec {i : Instr} {s t : State} (hs : s.BridgeInv) (h : exec i s = .next t) : t.BridgeInv := by
  rw [bridgeInv_iff] at hs ⊢
  obtain ⟨hwf, hss⟩ := hs
  refine ⟨wf_of_exec hwf h, ?_⟩
  cases effect_of_exec h with
  | unchanged | composited => exact hss
  | setupFailed => exact fun ss hsome => promise_setupFailed (hss ss hsome)
  | setupDone => rintro _ ⟨⟩; exact promise_newSession _ _ _ _
  | ended => exact fun _ h => by cases h
  | @decoded ss hsome => rintro _ ⟨⟩; exact hss ss hsome
  | reported hsome hp =>
    obtain ⟨-, hw, -, hwfs⟩ := hwf
    obtain ⟨-, -, hline⟩ := (session_wf_iff _ _).1 (hwfs _ hsome)
    rw [reportButton_of_session _ _ hsome]
    rintro _ ⟨⟩
    exact promise_reported hw (hline _) hp (hss _ hsome)
  | controlled =>
    intro tt ht
    obtain ⟨ss, hsome, rfl⟩ := Option.map_eq_some_iff.1 ht
    exact hss ss hsome

/-- Settles O15: every effect keeps the promise, and a host store touches nothing it speaks of. -/
theorem stepKeepsTheBridgePromise : Obligations.StepKeepsTheBridgePromise := by
  intro s t hs h
  refine step_preserves (P := State.BridgeInv) (fun _ _ _ hu => hu) (fun _ _ _ => bridgeInv_of_exec) ?_ hs h
  exact fun u n v ⟨hwf, hpromise⟩ => ⟨wf_of_hostStore n v hwf, hpromise⟩

end Sys2Proof.Proofs
end

section
/-! PROOFS. Several reports in a row (R106 corner cases (2), (4), (5)), and a report beside a display word. -/

namespace Sys2Proof.Proofs

open Sys2Proof.Machine

/-! ### Six-entry tables -/

theorem perButton_ext {α : Type} {t t' : PerButton α} (h : ∀ b, entry t b = entry t' b) : t = t' := by
  cases t; cases t'
  rw [PerButton.mk.injEq]
  exact ⟨h .up, h .down, h .left, h .right, h .aButton, h .bButton⟩

/-- Replacing an entry twice, the second time by what it was, leaves the table. -/
theorem setEntry_setEntry_restore {α : Type} (t : PerButton α) (b : ButtonId) (v : α) :
    setEntry (setEntry t b v) b (entry t b) = t := by
  cases b <;> rfl

/-- The id that names a button is its number (R108). -/
theorem eq_buttonCode_of_buttonOfId {id : Byte} {b : ButtonId} (h : buttonOfId id = some b) : id = buttonCode b := by
  refine BitVec.eq_of_toNat_eq ?_
  unfold buttonOfId at h
  split at h <;> cases h <;> assumption

theorem buttonOfId_injective {id id' : Byte} {b : ButtonId} (h : buttonOfId id = some b) (h' : buttonOfId id' = some b) :
    id = id' :=
  (eq_buttonCode_of_buttonOfId h).trans (eq_buttonCode_of_buttonOfId h').symm

/-! ### Reports in a row -/

/-- Settles O30: after a report that changed the table the stored state is the reported one. -/
theorem repeatedReportChangesNothing : Obligations.RepeatedReportChangesNothing := by
  intro id p s t h
  obtain ⟨-, he⟩ | ⟨ss, b, hs, hb, -, he⟩ := execSetbtn_cases id p s <;> cases he.symm.trans h
  · exact ⟨⟨[], by simp⟩, h⟩
  · refine ⟨⟨[_], reportButton_events .., by simp⟩, ?_⟩
    exact exec_setbtn_of_same (by rw [reportButton_session, hs]; rfl) hb (by simp)

/-- Settles O31: two transitions; the second stores again what the table held at first. -/
theorem pressAndReleaseRaiseTwice : Obligations.PressAndReleaseRaiseTwice := by
  intro id b s ss hs hb he
  refine ⟨_, _, exec_setbtn_of_change hs hb (by simp [he]), exec_setbtn_of_change rfl hb (by simp), ?_, by simp [levelOf]⟩
  have hrestore := setEntry_setEntry_restore ss.buttons b { pressed := true, line := levelOf true }
  rw [he] at hrestore
  rw [hs]
  exact congrArg (fun buttons => some { ss with buttons := buttons }) hrestore

/-! ### Reports of two ids -/

/-- The button table after a report (R106). -/
def reportTable (id : Byte) (p : Bool) (t : PerButton Button) : PerButton Button :=
  match buttonOfId id with
  | none => t
  | some b => if p = (entry t b).pressed then t else setEntry t b { pressed := p, line := levelOf p }

/-- A report replaces the entry of its own button, on a transition, and no other. -/
theorem entry_reportTable (id : Byte) (p : Bool) (t : PerButton Button) (b : ButtonId) :
    entry (reportTable id p t) b =
      if buttonOfId id = some b ∧ p ≠ (entry t b).pressed then { pressed := p, line := levelOf p } else entry t b := by
  unfold reportTable
  cases hb : buttonOfId id with
  | none => simp
  | some b' =>
    by_cases hbb : b = b'
    · subst hbb
      by_cases hp : p = (entry t b).pressed <;> simp [hp]
    · have hbb' : b' ≠ b := fun h => hbb h.symm
      by_cases hp : p = (entry t b').pressed <;> simp [hp, hbb', entry_setEntry_other t _ hbb]

theorem reportTable_comm {id id' : Byte} (h : id ≠ id') (p p' : Bool) (t : PerButton Button) :
    reportTable id' p' (reportTable id p t) = reportTable id p (reportTable id' p' t) := by
  refine perButton_ext fun b => ?_
  simp only [entry_reportTable]
  by_cases hb : buttonOfId id = some b
  · have hb' : buttonOfId id' ≠ some b := fun hb' => h (buttonOfId_injective hb hb')
    simp [hb']
  · simp [hb]

/-- What SETBTN leaves of the session. -/
theorem session_of_exec_setbtn {id : Byte} {p : Bool} {s t : State} (h : exec (.setbtn id p) s = .next t) :
    t.session = s.session.map fun ss => { ss with buttons := reportTable id p ss.buttons } := by
  obtain ⟨hsame, he⟩ | ⟨ss, b, hs, hb, hp, he⟩ := execSetbtn_cases id p s <;> cases he.symm.trans h
  · cases hs : s.session with
    | none => rfl
    | some ss =>
      have htable : reportTable id p ss.buttons = ss.buttons := by
        unfold reportTable
        cases hb : buttonOfId id with
        | none => rfl
        | some b => exact if_pos (hsame ss hs b hb)
      simp [htable]
  · simp [reportTable, hs, hb, hp]

/-- Settles O32: the two reports replace entries of different buttons. -/
theorem reportsOfDistinctIdsCommute : Obligations.ReportsOfDistinctIdsCommute := by
  intro id id' p p' s t u t' u' hne h1 h2 h3 h4
  rw [session_of_exec_setbtn h2, session_of_exec_setbtn h1, session_of_exec_setbtn h4, session_of_exec_setbtn h3]
  simp [Function.comp_def, reportTable_comm hne]

/-! ### Reports and display words -/

/-- An act on the session that reads no button and writes none. -/
def IgnoresButtons (f : Session → Session) : Prop :=
  ∀ (ss : Session) (buttons : PerButton Button), f { ss with buttons := buttons } = { f ss with buttons := buttons }

theorem buttons_of_ignoresButtons {f : Session → Session} (hf : IgnoresButtons f) (ss : Session) :
    (f ss).buttons = ss.buttons := by
  have h := congrArg Session.buttons (hf ss ss.buttons)
  exact h

/-- At one geometry an engine action or a WRNOTIFY acts on the session without reading or writing its buttons. -/
theorem exists_sessionUpdate {i : Instr} (hi : i.performer = .engine ∨ i = .wrnotify) (g : Geometry) :
    ∃ f : Session → Session, IgnoresButtons f ∧ ∀ s : State, s.geom = g → exec i s = .next (s.onSession f) := by
  obtain hi | rfl := hi
  · obtain ⟨f, -, he⟩ := exists_controllerUpdate hi g
    exact ⟨fun ss => { ss with cm := f ss.cm }, fun _ _ => rfl, he⟩
  · refine ⟨fun ss => if decodeDue ss.cm then ss.decoded g else ss, fun ss buttons => ?_,
      fun s hg => hg ▸ exec_wrnotify s⟩
    by_cases hd : decodeDue ss.cm = true <;> simp [hd, Session.decoded]

theorem reportButton_onSession {f : Session → Session} (hf : IgnoresButtons f) (s : State) (b : ButtonId) (p : Bool) :
    (s.reportButton b p).onSession f = (s.onSession f).reportButton b p := by
  cases hs : s.session with
  | none => simp [State.reportButton, State.onSession, State.emit, hs]
  | some ss =>
    have hs' : (s.onSession f).session = some (f ss) := by simp [hs]
    rw [reportButton_of_session b p hs, reportButton_of_session b p hs', onSession_of_session f rfl, hf,
      buttons_of_ignoresButtons hf]
    rfl

/-- A display word or engine action leaves the buttons. -/
theorem buttons_of_exec {i : Instr} {s t : State} (hi : i.performer = .engine ∨ i = .wrnotify ∨ i = .composite)
    (h : exec i s = .next t) : t.session.map Session.buttons = s.session.map Session.buttons := by
  rw [← or_assoc] at hi
  obtain hi | rfl := hi
  · obtain ⟨f, hf, he⟩ := exists_sessionUpdate hi s.geom
    cases (he s rfl).symm.trans h
    simp [Function.comp_def, buttons_of_ignoresButtons hf]
  · obtain ⟨-, he⟩ | ⟨_, -, -, -, he⟩ | ⟨-, he⟩ := execComposite_cases s <;> cases he.symm.trans h <;> rfl

/-- COMPOSITE does the same after a report as before it. -/
theorem composite_reportButton {s t : State} (h : exec .composite s = .next t) (b : ButtonId) (p : Bool) :
    exec .composite (s.reportButton b p) = .next (t.reportButton b p) := by
  cases hs : s.session with
  | none =>
    cases (exec_composite_of_not_live hs).symm.trans h
    exact exec_composite_of_not_live (by simp [hs])
  | some ss =>
    have hs' : (s.reportButton b p).session =
        some { ss with buttons := setEntry ss.buttons b { pressed := p, line := levelOf p } } := by simp [hs]
    obtain ⟨hoff, he⟩ | ⟨ss', hsome, hon, hp, he⟩ | ⟨-, he⟩ := execComposite_cases s <;> cases he.symm.trans h
    · exact exec_composite_of_off hs' (hoff ss hs)
    · cases hs.symm.trans hsome
      rw [exec_composite_of_on hs' hon hp]
      rfl

/-- A display word or engine action does the same after a report as before it: it reads no button, line or event. -/
theorem exec_reportButton {i : Instr} {s t : State} (hi : i.performer = .engine ∨ i = .wrnotify ∨ i = .composite)
    (h : exec i s = .next t) (b : ButtonId) (p : Bool) :
    exec i (s.reportButton b p) = .next (t.reportButton b p) := by
  rw [← or_assoc] at hi
  obtain hi | rfl := hi
  · obtain ⟨f, hf, he⟩ := exists_sessionUpdate hi s.geom
    cases (he s rfl).symm.trans h
    rw [← reportButton_onSession hf]
    exact he _ rfl
  · exact composite_reportButton h b p

/-- SETBTN answers the same way, silent or with one report, on every state with the same buttons and liveness. -/
theorem exec_setbtn_same_way (id : Byte) (p : Bool) {s t : State}
    (h : t.session.map Session.buttons = s.session.map Session.buttons) :
    (exec (.setbtn id p) s = .next s ∧ exec (.setbtn id p) t = .next t) ∨
      ∃ b, exec (.setbtn id p) s = .next (s.reportButton b p) ∧ exec (.setbtn id p) t = .next (t.reportButton b p) := by
  obtain ⟨hsame, he⟩ | ⟨ss, b, hs, hb, hp, he⟩ := execSetbtn_cases id p s
  · refine .inl ⟨he, exec_setbtn_of_no_change fun tt ht b hb => ?_⟩
    rw [Option.mem_def.1 ht] at h
    obtain ⟨ss, hs, hbuttons⟩ := Option.map_eq_some_iff.1 h.symm
    exact hbuttons ▸ hsame ss hs b hb
  · rw [hs] at h
    obtain ⟨tt, ht, hbuttons⟩ := Option.map_eq_some_iff.1 h
    refine .inr ⟨b, he, ?_⟩
    rw [exec_setbtn_of_change ht hb (hbuttons ▸ hp), reportButton_of_session b p ht]

/-- Settles O59: SETBTN answers the same way before and after the display word, and so does the display word around a report. -/
theorem buttonsAndDisplayCommute : Obligations.ButtonsAndDisplayCommute := by
  intro i id p s t u t' u' hi h1 h2 h3 h4
  obtain ⟨hs, ht⟩ | ⟨b, hs, ht⟩ := exec_setbtn_same_way id p (buttons_of_exec hi h1)
  · cases hs.symm.trans h3
    cases ht.symm.trans h2
    cases h1.symm.trans h4
    rfl
  · cases hs.symm.trans h3
    cases ht.symm.trans h2
    cases (exec_reportButton hi h1 b p).symm.trans h4
    rfl

end Sys2Proof.Proofs
end

section
/-! PROOFS. From one session to the next (R116, R162, R174). -/

namespace Sys2Proof.Proofs

open Sys2Proof.Machine

theorem readBit_tabulate {rows cols r x : Nat} (f : Nat → Nat → Bool) (hr : r < rows) (hx : x < cols) :
    readBit (Memory.tabulate rows cols f) r x = f r x := by
  simp [readBit, Memory.read_tabulate f hr hx]

theorem readByte_tabulate {rows cols p c : Nat} (f : Nat → Nat → Byte) (hp : p < rows) (hc : c < cols) :
    readByte (Memory.tabulate rows cols f) p c = f p c :=
  readByte_of_read (Memory.read_tabulate f hp hc)

/-- Settles O22: the new session is the one drawn, its two arrays given element by element. -/
theorem eachSetupDrawsAfresh : Obligations.EachSetupDrawsAfresh := fun _ hs =>
  ⟨_, _, exec_setup_of_success hs, rfl, rfl, fun _ _ hr hx => readBit_tabulate _ hr hx,
    fun _ _ hp hc => readByte_tabulate _ hp hc, rfl, rfl, rfl, rfl⟩

/-- Settles O24: TEARDOWN leaves no session, and SETUP then begins a new one. -/
theorem heldButtonsAreForgotten : Obligations.HeldButtonsAreForgotten := fun s =>
  ⟨_, _, _, exec_teardown s, exec_setup_of_success rfl, rfl, entry_newSession _ _, rfl⟩

/-- Settles O25: TEARDOWN makes the two states one. -/
theorem nothingElseCrossesSessions : Obligations.NothingElseCrossesSessions := by
  intro s s' t t' u u' ok hss h1 h2 h3 h4
  rw [hss, exec_teardown] at h3
  cases (exec_teardown s).symm.trans h1
  cases h3
  cases h2.symm.trans h4
  rfl

end Sys2Proof.Proofs
end

section
/-! PROOFS. The Display Decoder in sequence: `Decode` is a bijection (R82 (d)), decoding again changes nothing (R82 (a)), the map is
that of `vram` alone (R82 (b)), and CM.FLUSH (R68). -/

namespace Sys2Proof.Proofs

open Sys2Proof.Machine

/-! ### The bijection (R82 (d)) -/

/-- Bit `y` of a byte of the memory stands in the map at its own row and column. -/
theorem decodeVram_injective {g : Geometry} {vram vram' : List (List Byte)} (hm : Memory.Shaped g.pages g.cols vram)
    (hm' : Memory.Shaped g.pages g.cols vram') (h : decodeVram g vram = decodeVram g vram') : vram = vram' := by
  refine Memory.ext_of_shaped hm hm' fun p c hp hc => ?_
  obtain ⟨v, hv⟩ := Memory.read_isSome hm hp hc
  obtain ⟨v', hv'⟩ := Memory.read_isSome hm' hp hc
  rw [hv, hv', Option.some_inj]
  refine BitVec.eq_of_getLsbD_eq fun y hy => ?_
  have hbit := read_decodeVram_of_read hm hv hy
  rw [h, read_decodeVram_of_read hm' hv' hy, Option.some_inj] at hbit
  exact hbit.symm

/-- The controller memory that holds a map: byte (p, c) has in bit y what the map has in row 8p+y, column c. -/
def encodeLum (g : Geometry) (lum : List (List Bool)) : List (List Byte) :=
  Memory.tabulate g.pages g.cols fun p c => BitVec.ofFnLE fun y : Fin 8 => readBit lum (8 * p + y) c

theorem readBit_of_read {lum : List (List Bool)} {r x : Nat} {v : Bool} (h : Memory.read lum r x = some v) :
    readBit lum r x = v := by
  simp [readBit, h]

theorem decodeVram_encodeLum {g : Geometry} {lum : List (List Bool)} (hm : Memory.Shaped g.height g.width lum) :
    decodeVram g (encodeLum g lum) = lum := by
  refine Memory.ext_of_shaped (shaped_decodeVram _ _) hm fun r x hr hx => ?_
  obtain ⟨v, hv⟩ := Memory.read_isSome hm hr hx
  have hp : r / 8 < g.pages := by rw [Geometry_height_eq] at hr; omega
  have hc : x < g.cols := hx
  have hrow : 8 * (r / 8) + r % 8 = r := Nat.div_add_mod r 8
  have hbit : r % 8 < 8 := Nat.mod_lt r (by decide)
  rw [read_decodeVram _ hr hx, encodeLum, readByte_tabulate _ hp hc, BitVec.getLsbD_ofFnLE, dif_pos hbit, hrow,
    readBit_of_read hv, hv]

/-- Settles O34: injective bit by bit, and onto by packing the map again. -/
theorem decodeIsABijection : Obligations.DecodeIsABijection := fun g =>
  ⟨fun _ _ hm hm' h => decodeVram_injective hm hm' h,
    fun lum hm => ⟨encodeLum g lum, Memory.shaped_tabulate _ _ _, decodeVram_encodeLum hm⟩⟩

/-! ### WRNOTIFY beside the other words -/

theorem exec_cmDirty_of_session {s : State} {ss : Session} (d : Bool) (hs : s.session = some ss) :
    exec (.cmDirty d) s = .next { s with session := some { ss with cm := { ss.cm with dirty := d } } } :=
  exec_of_onController_of_session (exec_cmDirty d s) hs

/-- Settles O36: the second decode is due as the first was, of the same memory. -/
theorem decodingAgainGivesTheSameMap : Obligations.DecodingAgainGivesTheSameMap := by
  intro s ss hs hcur hdirty
  have hdue : decodeDue ss.cm = true := by simp [decodeDue, hcur, hdirty]
  have hagain : decodeDue { ss.cm with dirty := true } = true := by simp [decodeDue, hcur]
  exact ⟨_, _, _, exec_wrnotify_of_due hs hdue, exec_cmDirty_of_session true rfl, exec_wrnotify_of_due rfl hagain, rfl⟩

/-- Settles O37: both maps are the decode of the one memory. -/
theorem decodeReadsOnlyTheController : Obligations.DecodeReadsOnlyTheController := by
  intro s s' t t' ss ss' tt tt' hg hs hs' hvram hd hd' h h' ht ht'
  cases (exec_wrnotify_of_due hs hd).symm.trans h
  cases (exec_wrnotify_of_due hs' hd').symm.trans h'
  cases ht
  cases ht'
  simp only [Session.decoded, hg, hvram]

/-- Settles O38: the three words in turn; (0, 0) is in range and makes the decode due. -/
theorem flushAlwaysDecodes : Obligations.FlushAlwaysDecodes := by
  intro s ss hg hs
  obtain ⟨⟨hpages, -⟩, ⟨hcols, -⟩⟩ := hg
  exact ⟨_, _, _, exec_cmDirty_of_session true hs,
    exec_of_onController_of_session (exec_cmCursor hpages hcols) rfl, exec_wrnotify_of_due rfl rfl, rfl⟩

end Sys2Proof.Proofs
end

section
/-! PROOFS. What COMPOSITE leaves in the host's buffer (R90, R98): which words, how many of each colour, and from where. -/

namespace Sys2Proof.Proofs

open Sys2Proof.Machine

/-! ### COMPOSITE with the display on -/

/-- Settles O43: live and with the display on, only the size of the buffer stands in the way. -/
theorem wrongSizedBufferIsRefused : Obligations.WrongSizedBufferIsRefused := by
  intro s ss hs ho hp
  obtain ⟨hoff, -⟩ | ⟨_, -, -, hsize, -⟩ | ⟨-, he⟩ := execComposite_cases s
  · cases (hoff ss hs).symm.trans ho
  · exact absurd hsize hp
  · exact he

/-- Where COMPOSITE answers with the display on, the buffer is the frame. -/
theorem pix_of_exec_composite {s t : State} {ss : Session} (hs : s.session = some ss) (ho : flagOn ss.cm.flags = true)
    (h : exec .composite s = .next t) : t.pix = compositeFrame s.geom ss.cm.flags ss.cm.contrast ss.lum := by
  by_cases hp : s.pix.length = s.geom.width * s.geom.height
  · cases (exec_composite_of_on hs ho hp).symm.trans h
    rfl
  · cases (wrongSizedBufferIsRefused s ss hs ho hp).symm.trans h

/-- Settles O44: the frame has the buffer's size, and the session it is composed from is still there. -/
theorem compositeIsIdempotent : Obligations.CompositeIsIdempotent := by
  intro s t h
  obtain ⟨-, he⟩ | ⟨ss, hs, ho, -, he⟩ | ⟨-, he⟩ := execComposite_cases s <;> cases he.symm.trans h
  · exact h
  · exact exec_composite_of_on (ss := ss) hs ho (compositeFrame_length ..)

/-- Settles O49: both buffers are the frame of one map, one flags register and one contrast. -/
theorem compositeReadsOnlyMapFlagsContrast : Obligations.CompositeReadsOnlyMapFlagsContrast := by
  intro s s' t t' ss ss' hg hs hs' hlum hflags hcontrast ho h h'
  rw [pix_of_exec_composite hs ho h, pix_of_exec_composite hs' (hflags ▸ ho) h', hg, hlum, hflags, hcontrast]

/-! ### The words of a frame -/

theorem compositePixel_eq_gray_or_black (g : Geometry) (f : BitVec 4) (k : Byte) (lum : List (List Bool)) (y x : Nat) :
    compositePixel g f k lum y x = grayWord k ∨ compositePixel g f k lum y x = blackWord := by
  unfold compositePixel foreground background
  cases readBit lum (sourceRow g f y) (sourceColumn g f x) <;> cases flagInv f <;> simp

/-- Settles O45: every word of the frame is a pixel, and every pixel a colour. -/
theorem everyPixelIsGrayOrBlack : Obligations.EveryPixelIsGrayOrBlack := by
  intro s t ss hs ho h w hw
  rw [pix_of_exec_composite hs ho h] at hw
  obtain ⟨n, -, rfl⟩ := List.mem_map.1 hw
  exact compositePixel_eq_gray_or_black ..

/-! ### Counting the words of a frame (R98 (e)) -/

/-- One more row. -/
theorem tabulate_succ {α : Type} (rows cols : Nat) (f : Nat → Nat → α) :
    Memory.tabulate (rows + 1) cols f = Memory.tabulate rows cols f ++ [(List.range cols).map (f rows)] := by
  simp [Memory.tabulate, List.range_succ]

section Count

variable {α : Type} [DecidableEq α]

theorem count_map_range (n : Nat) (f : Nat → α) (v : α) :
    ((List.range n).map f).count v = ∑ x ∈ Finset.range n, if f x = v then 1 else 0 := by
  induction n with
  | zero => rfl
  | succ n ih =>
    rw [List.range_succ, List.map_append, List.count_append, ih, Finset.sum_range_succ, List.map_singleton,
      List.count_singleton]
    simp only [beq_iff_eq]

theorem count_flatten_tabulate (rows cols : Nat) (f : Nat → Nat → α) (v : α) :
    (Memory.tabulate rows cols f).flatten.count v =
      ∑ r ∈ Finset.range rows, ∑ c ∈ Finset.range cols, if f r c = v then 1 else 0 := by
  induction rows with
  | zero => rfl
  | succ n ih =>
    rw [tabulate_succ, List.flatten_append, List.count_append, ih, List.flatten_singleton, count_map_range,
      Finset.sum_range_succ]

end Count

/-- A frame is its rows, one after the other (R22). -/
theorem frameOf_eq_flatten (w h : Nat) (f : Nat → Nat → Word) : frameOf w h f = (Memory.tabulate h w f).flatten := by
  induction h with
  | zero => simp [frameOf, Memory.tabulate]
  | succ h ih =>
    have hrow : ∀ x ∈ List.range w, f ((w * h + x) / w) ((w * h + x) % w) = f h x := fun x hx => by
      have hx : x < w := List.mem_range.1 hx
      rw [Nat.mul_add_div (by omega), Nat.div_eq_of_lt hx, Nat.mul_add_mod, Nat.mod_eq_of_lt hx, Nat.add_zero]
    rw [tabulate_succ, List.flatten_append, ← ih, List.flatten_singleton, frameOf, Nat.mul_succ, List.range_add, List.map_append,
      List.map_map]
    exact congrArg _ (List.map_congr_left hrow)

/-- A shaped array is the table of its elements. -/
theorem tabulate_readBit {rows cols : Nat} {lum : List (List Bool)} (hm : Memory.Shaped rows cols lum) :
    Memory.tabulate rows cols (readBit lum) = lum := by
  refine Memory.ext_of_shaped (Memory.shaped_tabulate _ _ _) hm fun r c hr hc => ?_
  obtain ⟨v, hv⟩ := Memory.read_isSome hm hr hc
  rw [Memory.read_tabulate _ hr hc, readBit_of_read hv, hv]

/-- Mirroring the rows reorders a sum over them (R95). -/
theorem sum_sourceRow (g : Geometry) (f : BitVec 4) (F : Nat → Nat) :
    ∑ y ∈ Finset.range g.height, F (sourceRow g f y) = ∑ y ∈ Finset.range g.height, F y := by
  unfold sourceRow
  cases flagComrev f with
  | false => rfl
  | true => exact Finset.sum_range_reflect F g.height

/-- Mirroring the columns reorders a sum over them (R94). -/
theorem sum_sourceColumn (g : Geometry) (f : BitVec 4) (F : Nat → Nat) :
    ∑ x ∈ Finset.range g.width, F (sourceColumn g f x) = ∑ x ∈ Finset.range g.width, F x := by
  unfold sourceColumn
  cases flagRemap f with
  | false => rfl
  | true => exact Finset.sum_range_reflect F g.width

/-- The gray level is not 0, at any contrast (R92). -/
theorem grayWord_ne_blackWord (k : Byte) : grayWord k ≠ blackWord := by
  intro h
  have hlevel : grayLevel k = 0 := by
    have hop := congrArg fieldOp h
    rwa [show grayWord k = joinFields (grayLevel k) (grayLevel k) (grayLevel k) 0xFF from rfl,
      Laws.fieldOp_joinFields, blackWord_eq] at hop
  have hnat := grayLevel_toNat k
  rw [hlevel, show (0 : Byte).toNat = 0 from rfl] at hnat
  omega

theorem background_ne_foreground (f : BitVec 4) (k : Byte) : background f k ≠ foreground f k := by
  unfold background foreground
  cases flagInv f with
  | false => exact (grayWord_ne_blackWord k).symm
  | true => exact grayWord_ne_blackWord k

/-- A pixel has the foreground colour exactly where its source bit is lit (R96). -/
theorem compositePixel_eq_foreground_iff (g : Geometry) (f : BitVec 4) (k : Byte) (lum : List (List Bool)) (y x : Nat) :
    compositePixel g f k lum y x = foreground f k ↔ readBit lum (sourceRow g f y) (sourceColumn g f x) = true := by
  unfold compositePixel
  cases readBit lum (sourceRow g f y) (sourceColumn g f x) <;> simp [background_ne_foreground]

theorem count_foreground_compositeFrame {g : Geometry} {lum : List (List Bool)} (f : BitVec 4) (k : Byte)
    (hm : Memory.Shaped g.height g.width lum) :
    (compositeFrame g f k lum).count (foreground f k) = lum.flatten.count true := by
  rw [compositeFrame, frameOf_eq_flatten, count_flatten_tabulate]
  simp only [compositePixel_eq_foreground_iff]
  rw [sum_sourceRow g f fun r => ∑ x ∈ Finset.range g.width, if readBit lum r (sourceColumn g f x) = true then 1 else 0]
  conv_rhs => rw [← tabulate_readBit hm, count_flatten_tabulate]
  exact Finset.sum_congr rfl fun r _ => sum_sourceColumn g f fun c => if readBit lum r c = true then 1 else 0

/-- Settles O46: the frame's count, of a map of the right shape. -/
theorem foregroundPixelsAreTheLitBits : Obligations.ForegroundPixelsAreTheLitBits := by
  rintro s t ss ⟨-, -, -, hss⟩ hs ho h
  obtain ⟨hm, -⟩ := hss ss hs
  rw [pix_of_exec_composite hs ho h, count_foreground_compositeFrame _ _ hm]

/-! ### Two frames of one map, and the frame of a decode -/

/-- CM.FLAGS with the display on, then COMPOSITE: the frame at those flags. -/
theorem exec_cmFlags_composite {s : State} {ss : Session} (hs : s.session = some ss)
    (hp : s.pix.length = s.geom.width * s.geom.height) {f : BitVec 4} (ho : flagOn f = true) :
    ∃ t u, exec (.cmFlags f) s = .next t ∧ exec .composite t = .next u ∧
      u.pix = compositeFrame s.geom f ss.cm.contrast ss.lum :=
  ⟨_, _, exec_of_onController_of_session (exec_cmFlags f s) hs, exec_composite_of_on rfl ho hp, rfl⟩

/-- Settles O47: the two frames read the same bit of the map at the two places, in opposite colours. -/
theorem invertedHalfTurnSwapsThePlainFrame : Obligations.InvertedHalfTurnSwapsThePlainFrame := by
  rintro s ss ⟨-, -, hp, -⟩ hs
  obtain ⟨a, p, ha, hap, hplain⟩ := exec_cmFlags_composite hs hp (f := 0b0001) (by decide)
  obtain ⟨b, q, hb, hbq, hturned⟩ := exec_cmFlags_composite hs hp (f := 0b1111) (by decide)
  refine ⟨a, p, b, q, ha, hap, hb, hbq, fun y x hy hx => ?_⟩
  rw [hplain, hturned, compositeFrame_getElem? _ _ _ (by omega) (by omega), compositeFrame_getElem? _ _ _ hy hx]
  have hrow : sourceRow s.geom 0b0001 (s.geom.height - 1 - y) = sourceRow s.geom 0b1111 y := rfl
  have hcol : sourceColumn s.geom 0b0001 (s.geom.width - 1 - x) = sourceColumn s.geom 0b1111 x := rfl
  rw [hrow, hcol]
  cases readBit ss.lum (sourceRow s.geom 0b1111 y) (sourceColumn s.geom 0b1111 x) with
  | true => exact .inl ⟨rfl, rfl⟩
  | false => exact .inr ⟨rfl, rfl⟩

/-- Settles O48: the pixel at row 8p+y, column c is the map's bit there, which the decode took from bit y of byte (p, c). -/
theorem decodeThenCompositeShowsTheMemory : Obligations.DecodeThenCompositeShowsTheMemory := by
  rintro s ss ⟨-, -, hp, hss⟩ hs hd hflags hcontrast
  obtain ⟨-, ⟨hm, -⟩, -⟩ := hss ss hs
  have hon : flagOn (ss.decoded s.geom).cm.flags = true := by rw [Session.decoded, hflags]; rfl
  refine ⟨_, _, exec_wrnotify_of_due hs hd, exec_composite_of_on rfl hon hp, fun p c y v hv hy => ?_⟩
  obtain ⟨hpage, hcol⟩ := Memory.bounds_of_read hm hv
  have hrow : 8 * p + y < s.geom.height := by rw [Geometry_height_eq]; omega
  have hbit := readBit_of_read (read_decodeVram_of_read hm hv hy)
  have hsource : readBit (decodeVram s.geom ss.cm.vram) (sourceRow s.geom 0b0001 (8 * p + y))
      (sourceColumn s.geom 0b0001 c) = v.getLsbD y := hbit
  simp only [Session.decoded, hflags, hcontrast]
  rw [← Geometry_width_eq] at hcol
  rw [compositeFrame_getElem? _ _ _ hrow hcol, hsource]
  cases v.getLsbD y <;> decide

end Sys2Proof.Proofs
end
